-- ==== Sys2Proof/Word.lean ====
section
/-! DEFINITION. The two value types of the block: 8-bit bytes and 32-bit words, all unsigned (00_scope.md R6, R8). -/

namespace Sys2Proof

/-- A byte: `cmd`, a payload byte, one byte of a chunk type (R6). -/
abbrev Byte := BitVec 8

/-- A 32-bit word: `wdata`, `rdata`, `crc`, `cnt`, `ctype` (R6). -/
abbrev Word := BitVec 32

end Sys2Proof
end

