-- ==== Sys2Proof/Syntax.lean ====
section
/-! DEFINITION. The commands of the block (30_encoding.md R51 to R53), the port word pair that carries one (R50), and the
assembler's source forms (R57, R58). -/

namespace Sys2Proof

/-- The fifteen mnemonics of R53, in the order of their `op` values. -/
inductive Mnemonic
  | nop
  | crcInit
  | crcByte
  | crcWord
  | crcRead
  | crcCheck
  | typeLoad
  | typeLoadc
  | typeRead
  | typeFlags
  | chunkStart
  | cntRead
  | errRead
  | errClear
  | sreset
  deriving DecidableEq, Repr

/-- The shapes an operand takes (R52); `none` is a command that ignores `wdata`. -/
inductive OperandShape
  | none
  | byte
  | dataWord
  | checkWord
  | typeWord
  deriving DecidableEq, Repr

/-- A legal command with the operand bits it consumes (R52, R53): one constructor per row of opcode_table.json. The type
of an operand is its width, so every value of `Instr` is a well-formed command. Ignored bits of `wdata` have no place
here: R52 gives them no effect (log 6). -/
inductive Instr
  | nop
  | crcInit
  /-- The operand is `wdata[7:0]`. -/
  | crcByte (b : Byte)
  /-- The operand is four payload bytes, the first in bits 31:24. -/
  | crcWord (w : Word)
  | crcRead
  /-- The operand is the stored CRC. -/
  | crcCheck (w : Word)
  /-- The operand is a type word, byte 0 of the chunk type in bits 31:24. -/
  | typeLoad (t : Word)
  | typeLoadc (t : Word)
  | typeRead
  | typeFlags
  | chunkStart (t : Word)
  | cntRead
  | errRead
  | errClear
  | sreset
  deriving DecidableEq, Repr

/-- What the host puts on the input ports for one transaction (R50, R51). -/
structure Command where
  cmd : BitVec 8
  wdata : Word
  deriving DecidableEq, Repr

/-- An operand literal of the assembler (R57). -/
inductive Literal
  /-- `0x...` or decimal digits. -/
  | number (n : Nat)
  /-- A type literal: four characters in single quotes. -/
  | quoted (c0 c1 c2 c3 : Char)
  /-- One character in single quotes, for CRC_BYTE. -/
  | character (c : Char)
  deriving DecidableEq, Repr

/-- One source line that is a command: a mnemonic and, for commands that take one, an operand (R57). -/
structure SourceCommand where
  mnemonic : Mnemonic
  operand : Option Literal
  deriving DecidableEq, Repr

/-- The `<bytes>` of a pseudo-instruction (R58): a double-quoted ASCII string, or a list of byte values. -/
inductive ByteText
  | string (cs : List Char)
  | values (ns : List Nat)
  deriving DecidableEq, Repr

/-- One source line: a command (R57) or a pseudo-instruction (R58). -/
inductive SourceLine
  | command (c : SourceCommand)
  | feed (bs : ByteText)
  | chunk (type : Literal) (bs : ByteText)
  | verify (type : Literal) (bs : ByteText) (crc : Literal)
  deriving DecidableEq, Repr

end Sys2Proof
end

