-- ==== Sys2Proof/WellFormed.lean ====
section
/-! DEFINITION. Which source commands the assembler accepts (30_encoding.md R57). A value of `Instr` needs no check: its
operand types are the widths R52 gives. What a host can write wrongly is a source line, and R57 says what is refused. -/

namespace Sys2Proof

/-- The operand shape of each command (R52, R53). -/
def Mnemonic.shape : Mnemonic → OperandShape
  | .crcByte => .byte
  | .crcWord => .dataWord
  | .crcCheck => .checkWord
  | .typeLoad => .typeWord
  | .typeLoadc => .typeWord
  | .chunkStart => .typeWord
  | .nop => .none
  | .crcInit => .none
  | .crcRead => .none
  | .typeRead => .none
  | .typeFlags => .none
  | .cntRead => .none
  | .errRead => .none
  | .errClear => .none
  | .sreset => .none

/-- How many bits of `wdata` a shape consumes (R47, R52). -/
def OperandShape.width : OperandShape → Nat
  | .none => 0
  | .byte => 8
  | .dataWord => 32
  | .checkWord => 32
  | .typeWord => 32

/-- The value of a literal (R57): a type literal is `{c0, c1, c2, c3}`, a character is its ASCII code. -/
def Literal.value : Literal → Nat
  | .number n => n
  | .quoted c0 c1 c2 c3 => ((c0.toNat * 256 + c1.toNat) * 256 + c2.toNat) * 256 + c3.toNat
  | .character c => c.toNat

/-- Quoted characters are ASCII (R57). -/
def Literal.isAscii : Literal → Bool
  | .number _ => true
  | .quoted c0 c1 c2 c3 => [c0, c1, c2, c3].all (fun c => decide (c.toNat < 128))
  | .character c => decide (c.toNat < 128)

/-- Why the assembler refuses a source line. -/
inductive AsmError
  /-- A command that takes an operand has none (R57 writes "one space and the operand" for it, and does not name this
  refusal; log 12). -/
  | missingOperand
  /-- "an operand on a command that takes none" (R57). -/
  | unexpectedOperand
  /-- A single quoted character on a command other than CRC_BYTE (R57 gives that form "for CRC_BYTE"; log 12). -/
  | characterForWord
  /-- A quoted character that is not ASCII (R57). -/
  | notAscii
  /-- "an operand that does not fit its shape" (R57). -/
  | doesNotFit
  deriving DecidableEq, Repr

/-- The check of an operand against a shape that takes one. -/
def Literal.check (sh : OperandShape) (l : Literal) : Option AsmError :=
  match l with
  | .character _ =>
    if sh ≠ .byte then some .characterForWord
    else if l.isAscii then none else some .notAscii
  | .number _ => if l.value < 2 ^ sh.width then none else some .doesNotFit
  | .quoted _ _ _ _ =>
    if !l.isAscii then some .notAscii
    else if l.value < 2 ^ sh.width then none else some .doesNotFit

/-- The assembler's check of one source command: `none` when it is well formed, else the reason (R57). -/
def SourceCommand.check (c : SourceCommand) : Option AsmError :=
  match c.mnemonic.shape, c.operand with
  | .none, none => none
  | .none, some _ => some .unexpectedOperand
  | _, none => some .missingOperand
  | sh, some l => l.check sh

/-- The check of a pseudo-instruction's bytes: ASCII characters, or values that fit a byte (R58). -/
def ByteText.check : ByteText → Option AsmError
  | .string cs => if cs.all (fun c => decide (c.toNat < 128)) then none else some .notAscii
  | .values ns => if ns.all (fun n => decide (n < 256)) then none else some .doesNotFit

/-- The check of one source line. A pseudo-instruction is accepted when the operands of every command it expands to
are (R58). -/
def SourceLine.check : SourceLine → Option AsmError
  | .command c => c.check
  | .feed bs => bs.check
  | .chunk t bs => (t.check .typeWord).or bs.check
  | .verify t bs s => ((t.check .typeWord).or bs.check).or (s.check .checkWord)

/-- A source line is well formed when the assembler does not refuse it. -/
def SourceLine.wf (l : SourceLine) : Bool := l.check == none

end Sys2Proof
end

