-- ==== Sys2Proof/Decode.lean ====
section
/-! DEFINITION. Decoding a command from the ports, total on all 2^8 × 2^32 values and rejecting by name (30_encoding.md
R51 to R53, R55, R56), the encoder, and the opcode table's numbering of the bits (log 5). -/

namespace Sys2Proof

/-- Why a `cmd` is illegal (R55). -/
inductive IllegalReason
  /-- `cmd[7:4] != 0b0000`. -/
  | zNotZero
  /-- `cmd = 0x0F`. -/
  | reservedOp
  deriving DecidableEq, Repr

/-- What a command decodes to (R56): one of the 15 legal commands, or "illegal". -/
inductive Decoded
  | legal (i : Instr)
  | illegal (r : IllegalReason)
  deriving DecidableEq, Repr

/-- The field `z = cmd[7:4]` (R51). -/
abbrev Command.z (c : Command) : BitVec 4 := c.cmd.extractLsb' 4 4

/-- The field `op = cmd[3:0]` (R51). -/
abbrev Command.op (c : Command) : BitVec 4 := c.cmd.extractLsb' 0 4

/-- The opcode map (R53, R56); `0xF` is reserved. -/
def Mnemonic.ofOp (op : BitVec 4) : Option Mnemonic :=
  match op.toNat with
  | 0x0 => some .nop
  | 0x1 => some .crcInit
  | 0x2 => some .crcByte
  | 0x3 => some .crcWord
  | 0x4 => some .crcRead
  | 0x5 => some .crcCheck
  | 0x6 => some .typeLoad
  | 0x7 => some .typeLoadc
  | 0x8 => some .typeRead
  | 0x9 => some .typeFlags
  | 0xA => some .chunkStart
  | 0xB => some .cntRead
  | 0xC => some .errRead
  | 0xD => some .errClear
  | 0xE => some .sreset
  | _ => none

/-- Operand assembly (R52): the command with the bits of `wdata` it consumes; the other bits are dropped. -/
def Mnemonic.withOperand (m : Mnemonic) (wdata : Word) : Instr :=
  match m with
  | .nop => .nop
  | .crcInit => .crcInit
  | .crcByte => .crcByte (wdata.extractLsb' 0 8)
  | .crcWord => .crcWord wdata
  | .crcRead => .crcRead
  | .crcCheck => .crcCheck wdata
  | .typeLoad => .typeLoad wdata
  | .typeLoadc => .typeLoadc wdata
  | .typeRead => .typeRead
  | .typeFlags => .typeFlags
  | .chunkStart => .chunkStart wdata
  | .cntRead => .cntRead
  | .errRead => .errRead
  | .errClear => .errClear
  | .sreset => .sreset

/-- `decode` of R56. -/
def decode (c : Command) : Decoded :=
  if c.z ≠ 0#4 then .illegal .zNotZero
  else match Mnemonic.ofOp c.op with
    | some m => .legal (m.withOperand c.wdata)
    | none => .illegal .reservedOp

/-- The mnemonic of a command. -/
def Instr.mnemonic : Instr → Mnemonic
  | .nop => .nop
  | .crcInit => .crcInit
  | .crcByte _ => .crcByte
  | .crcWord _ => .crcWord
  | .crcRead => .crcRead
  | .crcCheck _ => .crcCheck
  | .typeLoad _ => .typeLoad
  | .typeLoadc _ => .typeLoadc
  | .typeRead => .typeRead
  | .typeFlags => .typeFlags
  | .chunkStart _ => .chunkStart
  | .cntRead => .cntRead
  | .errRead => .errRead
  | .errClear => .errClear
  | .sreset => .sreset

/-- The value of `cmd` for each mnemonic, from the table of R53. -/
def Mnemonic.cmd : Mnemonic → BitVec 8
  | .nop => 0x00#8
  | .crcInit => 0x01#8
  | .crcByte => 0x02#8
  | .crcWord => 0x03#8
  | .crcRead => 0x04#8
  | .crcCheck => 0x05#8
  | .typeLoad => 0x06#8
  | .typeLoadc => 0x07#8
  | .typeRead => 0x08#8
  | .typeFlags => 0x09#8
  | .chunkStart => 0x0A#8
  | .cntRead => 0x0B#8
  | .errRead => 0x0C#8
  | .errClear => 0x0D#8
  | .sreset => 0x0E#8

/-- The operand word the assembler puts on `wdata` (R57): the operand zero-extended, and 0 for a command without one. -/
def Instr.wdata : Instr → Word
  | .crcByte b => b.setWidth 32
  | .crcWord w => w
  | .crcCheck w => w
  | .typeLoad t => t
  | .typeLoadc t => t
  | .chunkStart t => t
  | .nop => 0#32
  | .crcInit => 0#32
  | .crcRead => 0#32
  | .typeRead => 0#32
  | .typeFlags => 0#32
  | .cntRead => 0#32
  | .errRead => 0#32
  | .errClear => 0#32
  | .sreset => 0#32

/-- The command the host issues for an instruction (R53, R57). -/
def encode (i : Instr) : Command := ⟨i.mnemonic.cmd, i.wdata⟩

/-- The command whose bits, numbered as opcode_table.json numbers them, are `w`: `cmd` is bits 7:0 (the table's eight
bits) and `wdata` bits 39:8; bits at or above `nbits` are 0 (log 5). -/
def Command.ofTableWord (nbits w : Nat) : Command :=
  let v := w % 2 ^ nbits
  ⟨BitVec.ofNat 8 v, BitVec.ofNat 32 (v / 256)⟩

/-- The legal command, if the decoder gives one. -/
def Decoded.toOption : Decoded → Option Instr
  | .legal i => some i
  | .illegal _ => none

/-- The instruction the decoder reads from a table word; `none` where it answers "illegal". -/
def decodeTableWord (nbits w : Nat) : Option Instr := (decode (Command.ofTableWord nbits w)).toOption

end Sys2Proof
end

