-- ==== Sys2Proof/Machine/State.lean ====
section
/-! DEFINITION. The machine's state as plain data: the block's four registers (10_state.md R20), and beside them the command
port, through which a step takes what the host presents and delivers its result (log 1, log 2). -/

namespace Sys2Proof.Machine

/-- The status codes (60_exceptions.md R130). -/
inductive Status
  | ok
  | illegalCmd
  | invalidType
  | crcMismatch
  deriving DecidableEq, Repr

/-- The response of one command (30_encoding.md R54). -/
structure Response where
  status : Status
  rdata : Word
  deriving DecidableEq, Repr

/-- What the host can do to the block (60_exceptions.md R140): present a command, or assert `rst` between commands. -/
inductive HostEvent
  | command (c : Command)
  | reset
  deriving DecidableEq, Repr

/-- The block's architectural state: exactly these four registers (R20: "Nothing else is state"). -/
structure Registers where
  /-- Running CRC remainder, not inverted (R21). -/
  crc : Word
  /-- Payload bytes fed since the last CRC_INIT or CHUNK_START, modulo 2^32 (R22). -/
  cnt : Word
  /-- Current chunk-type word, byte 0 in bits 31:24 (R23). -/
  ctype : Word
  /-- Sticky error bits (R25). -/
  err : BitVec 3
  deriving DecidableEq, Repr

/-- The command port (30_encoding.md R50), the model's own and no state of the block. -/
structure Port where
  /-- What the host is going to present, oldest first (log 1). -/
  inputs : List HostEvent
  /-- The result of the step that gave this state: the response it delivered, `none` where it delivered none. Every step
  puts its own result here and no step reads it, so no response is kept (R27; log 2). -/
  output : Option Response
  deriving DecidableEq, Repr

/-- What a step takes and gives: the block's registers, and the port beside them. -/
structure State extends Registers, Port
  deriving DecidableEq, Repr

/-- The ways the machine stops with a fault: none. "No command leaves the block stuck, faulted or halted"
(60_exceptions.md R141); an error is a status in a response (R130), and the machine goes on (log 10). -/
inductive Fault
  deriving DecidableEq, Repr

/-- The ways the model refuses an instruction. -/
inductive Refusal
  /-- Raised by an arm of `exec` whose instruction has no meaning yet (safe: the model stops where the hardware goes
  on). No arm raises it. -/
  | notModelled (mnemonic : String)
  deriving DecidableEq, Repr

/-- What a meaning answers. -/
abbrev Result := Host.Outcome State Fault Refusal

/-- The machine right after reset (70_reset_and_hazards.md R150, R152), with nothing presented yet (log 4). -/
def State.reset : State where
  crc := 0xFFFFFFFF#32
  cnt := 0x00000000#32
  ctype := 0xFFFFFF00#32
  err := 0b000#3
  inputs := []
  output := none

end Sys2Proof.Machine
end

