-- ==== Sys2Proof/Machine/Ops.lean ====
section
/-! DEFINITION. The shared operations on the state: register writes (00_scope.md R9), delivering a response, raising a
status (60_exceptions.md R130, R133), the reset values (70_reset_and_hazards.md R150), and taking what the host presents.
The block has no trap (R135), so `raise` stands where another machine takes an exception, and there is no return from
one (R136). -/

namespace Sys2Proof.Machine

/-- `crc <- v`. -/
def State.setCrc (s : State) (v : Word) : State := { s with crc := v }

/-- `cnt <- v`. -/
def State.setCnt (s : State) (v : Word) : State := { s with cnt := v }

/-- `ctype <- v`. -/
def State.setCtype (s : State) (v : Word) : State := { s with ctype := v }

/-- `err <- v`. -/
def State.setErr (s : State) (v : BitVec 3) : State := { s with err := v }

/-- What the host is going to present. -/
def State.setInputs (s : State) (es : List HostEvent) : State := { s with inputs := es }

/-- The value of the two-bit output `status` (R130). -/
def Status.code : Status → BitVec 2
  | .ok => 0b00#2
  | .illegalCmd => 0b01#2
  | .invalidType => 0b10#2
  | .crcMismatch => 0b11#2

/-- The bit of `err` a status sets: `err[code(S) - 1]`; OK sets none (R133). -/
def Status.errMask (st : Status) : BitVec 3 :=
  match st.code.toNat with
  | 0 => 0#3
  | n + 1 => 1#3 <<< n

/-- Deliver a response as the result of the step (R27). -/
def State.deliver (s : State) (st : Status) (rdata : Word) : State := { s with output := some ⟨st, rdata⟩ }

/-- The step delivers no response. -/
def State.silent (s : State) : State := { s with output := none }

/-- `respond(status, rdata)` (R9): the command ends with this response. -/
def respond (st : Status) (rdata : Word) (s : State) : Result := .next (s.deliver st rdata)

/-- `raise S`: `err[code(S) - 1] <- 1; respond(S, rdata)` (R133). Nothing else in `err` changes. -/
def raise (st : Status) (rdata : Word) (s : State) : Result :=
  respond st rdata (s.setErr (s.err ||| st.errMask))

/-- Every register to its reset value, all together (R150; 42_control.md R118). -/
def State.resetRegisters (s : State) : State :=
  { s with crc := 0xFFFFFFFF#32, cnt := 0x00000000#32, ctype := 0xFFFFFF00#32, err := 0b000#3 }

/-- What the host presents next, with the state it leaves: each command is consumed once, in issue order
(20_memory.md R48). -/
def State.takeInput (s : State) : Option (HostEvent × State) :=
  match s.inputs with
  | [] => none
  | e :: es => some (e, s.setInputs es)

/-- The host presents `e` before anything else it was going to present. -/
def State.present (s : State) (e : HostEvent) : State := s.setInputs (e :: s.inputs)

/-- An illegal command (R134), whichever way its encoding is illegal (30_encoding.md R55): `err[0]` is set and the
answer is (ILLEGAL_CMD, 0). -/
def execIllegal (_ : IllegalReason) (s : State) : Result := raise .illegalCmd 0#32 s

/-- `rst` (R150): the reset values, and no response. -/
def takeReset (s : State) : Result := .next s.resetRegisters.silent

end Sys2Proof.Machine
end

