-- ==== Sys2Proof/Machine/ControlCommands.lean ====
section
/-! DEFINITION. The control commands (42_control.md R115 to R118). -/

namespace Sys2Proof.Machine

/-- NOP (R115). -/
def execNop (s : State) : Result := respond .ok 0#32 s

/-- ERR_READ (R116): `zext_32(err)`; the read does not clear. -/
def execErrRead (s : State) : Result := respond .ok (s.err.setWidth 32) s

/-- ERR_CLEAR (R117): all three bits together. -/
def execErrClear (s : State) : Result := respond .ok 0#32 (s.setErr 0b000#3)

/-- SRESET (R118): the registers as `rst` leaves them, with a response. -/
def execSreset (s : State) : Result := respond .ok 0#32 s.resetRegisters

end Sys2Proof.Machine
end

