-- ==== Sys2Proof/Machine/Operands.lean ====
section
/-! DEFINITION. The byte order of words (00_scope.md R10, 20_memory.md R42, R43): which byte is first, and the packing of
four stream bytes into a word. The operand shapes themselves (30_encoding.md R52) are read in Decode. -/

namespace Sys2Proof.Machine

/-- `byte(t, i)` of R10: byte 0 is `t[31:24]`, byte 3 is `t[7:0]`. -/
def byteAt (t : Word) (i : Fin 4) : Byte := t.extractLsb' (8 * (3 - i.val)) 8

/-- The four bytes of a word in stream order, most significant first (R42, R43). -/
def wordBytes (w : Word) : List Byte := [byteAt w 0, byteAt w 1, byteAt w 2, byteAt w 3]

/-- `{b0, b1, b2, b3}`: four stream bytes packed big-endian (R42, R43). -/
def packBytes (b0 b1 b2 b3 : Byte) : Word := b0 ++ b1 ++ b2 ++ b3

end Sys2Proof.Machine
end

