-- ==== Sys2Proof/Machine/Crc.lean ====
section
/-! DEFINITION. CRC-32/ISO-HDLC arithmetic (00_scope.md R3, 41_crc.md R90 to R93). -/

namespace Sys2Proof.Machine

/-- The generator polynomial 0x04C11DB7 in reflected form (R3, R90). -/
def crcPoly : Word := 0xEDB88320#32

/-- The initial register value (R3, R91). -/
def crcInit : Word := 0xFFFFFFFF#32

/-- The final XOR (R3, R91). -/
def crcXorOut : Word := 0xFFFFFFFF#32

/-- One turn of the loop of R90: consume the least significant bit. -/
def crcShift (c : Word) : Word :=
  if c.getLsbD 0 then (c >>> 1) ^^^ crcPoly else c >>> 1

/-- `n` turns of the loop of R90. -/
def crcShifts : Nat → Word → Word
  | 0, c => c
  | n + 1, c => crcShifts n (crcShift c)

/-- `crc_byte(c, b)` (R90). -/
def crcByte (c : Word) (b : Byte) : Word := crcShifts 8 (c ^^^ b.setWidth 32)

/-- `crc_seq(c, s)` (R91). -/
def crcSeq : Word → List Byte → Word
  | c, [] => c
  | c, b :: bs => crcSeq (crcByte c b) bs

/-- The CRC value a remainder stands for: `crc ^ 0xFFFFFFFF` (10_state.md R21, R91). -/
def crcValue (c : Word) : Word := c ^^^ crcXorOut

/-- `CRC32(s)` (R91). -/
def crc32 (s : List Byte) : Word := crcValue (crcSeq crcInit s)

/-- `chunk_crc(t, p)` (R92). -/
def chunkCrc (t : Word) (p : List Byte) : Word := crc32 (wordBytes t ++ p)

/-- Four byte steps over a word, most significant byte first (R96, R100). -/
def crcWord (c w : Word) : Word :=
  crcByte (crcByte (crcByte (crcByte c (byteAt w 0)) (byteAt w 1)) (byteAt w 2)) (byteAt w 3)

/-- The table entry `T[n]` (R93). -/
def crcTable (n : Byte) : Word := crcByte 0#32 n

/-- The table form of the byte step (R93). -/
def crcByteByTable (c : Word) (b : Byte) : Word :=
  crcTable (((c ^^^ b.setWidth 32) &&& 0xFF#32).setWidth 8) ^^^ (c >>> 8)

end Sys2Proof.Machine
end

