-- ==== Sys2Proof/Machine/Flags.lean ====
section
/-! DEFINITION. The chunk-type bit-extractor (40_chunk_type.md R70 to R77): pure and total functions of a type word. -/

namespace Sys2Proof.Machine

/-- `is_letter(b)` (R70). -/
def isLetter (b : Byte) : Bool :=
  (decide (0x41 ≤ b.toNat) && decide (b.toNat ≤ 0x5A)) || (decide (0x61 ≤ b.toNat) && decide (b.toNat ≤ 0x7A))

/-- Bit 5, mask 0x20, of a byte (R10). -/
def bit5 (b : Byte) : Bool := b.getLsbD 5

/-- `critical(t)` (R71). -/
def critical (t : Word) : Bool := !bit5 (byteAt t 0)

/-- `public(t)` (R72). -/
def isPublic (t : Word) : Bool := !bit5 (byteAt t 1)

/-- `reserved_ok(t)` (R73). -/
def reservedOk (t : Word) : Bool := !bit5 (byteAt t 2)

/-- `safe_to_copy(t)` (R74): the one property with the opposite sense. -/
def safeToCopy (t : Word) : Bool := bit5 (byteAt t 3)

/-- `all_letters(t)` (R75). -/
def allLetters (t : Word) : Bool :=
  isLetter (byteAt t 0) && isLetter (byteAt t 1) && isLetter (byteAt t 2) && isLetter (byteAt t 3)

/-- `valid(t)` (R75). -/
def validType (t : Word) : Bool := allLetters t && reservedOk t

/-- The twelve low bits of the flags word, bit 11 leftmost, as R76's pseudocode lists them. -/
def flagBits (t : Word) : BitVec 12 :=
  BitVec.ofBool (isLetter (byteAt t 3)) ++ BitVec.ofBool (isLetter (byteAt t 2)) ++
  BitVec.ofBool (isLetter (byteAt t 1)) ++ BitVec.ofBool (isLetter (byteAt t 0)) ++
  0b00#2 ++ BitVec.ofBool (validType t) ++ BitVec.ofBool (allLetters t) ++
  BitVec.ofBool (safeToCopy t) ++ BitVec.ofBool (reservedOk t) ++
  BitVec.ofBool (isPublic t) ++ BitVec.ofBool (critical t)

/-- `flags(t)` (R76). The property bits are not gated on letter validity (R77). -/
def flags (t : Word) : Word := (flagBits t).setWidth 32

end Sys2Proof.Machine
end

