-- ==== Sys2Proof/Machine/CrcCommands.lean ====
section
/-! DEFINITION. The CRC, chunk and counter commands (41_crc.md R94 to R100, R106). -/

namespace Sys2Proof.Machine

/-- CRC_INIT (R94). -/
def execCrcInit (s : State) : Result :=
  respond .ok 0#32 ((s.setCrc crcInit).setCnt 0#32)

/-- CRC_BYTE (R95); `cnt` counts modulo 2^32 (R97). -/
def execCrcByte (b : Byte) (s : State) : Result :=
  respond .ok 0#32 ((s.setCrc (crcByte s.crc b)).setCnt (s.cnt + 1#32))

/-- CRC_WORD (R96). -/
def execCrcWord (w : Word) (s : State) : Result :=
  respond .ok 0#32 ((s.setCrc (crcWord s.crc w)).setCnt (s.cnt + 4#32))

/-- CRC_READ (R98). -/
def execCrcRead (s : State) : Result := respond .ok (crcValue s.crc) s

/-- CRC_CHECK (R99): `rdata` is the recomputed CRC in both outcomes. -/
def execCrcCheck (w : Word) (s : State) : Result :=
  let v := crcValue s.crc
  if v = w then respond .ok v s
  else raise .crcMismatch v s

/-- CHUNK_START (R100): the type is fed to a new CRC and not counted; it is not checked. -/
def execChunkStart (t : Word) (s : State) : Result :=
  respond .ok (flags t) (((s.setCrc (crcWord crcInit t)).setCnt 0#32).setCtype t)

/-- CNT_READ (R106). -/
def execCntRead (s : State) : Result := respond .ok s.cnt s

end Sys2Proof.Machine
end

