-- ==== Sys2Proof/Machine/TypeCommands.lean ====
section
/-! DEFINITION. The type commands (40_chunk_type.md R78 to R81). -/

namespace Sys2Proof.Machine

/-- TYPE_LOAD (R78): unchecked type load. -/
def execTypeLoad (t : Word) (s : State) : Result :=
  respond .ok (flags t) (s.setCtype t)

/-- TYPE_LOADC (R79): checked type load; `f[5]` is `valid(wdata)`. A refused load leaves `ctype`. -/
def execTypeLoadc (t : Word) (s : State) : Result :=
  let f := flags t
  if f.getLsbD 5 then respond .ok f (s.setCtype t)
  else raise .invalidType f s

/-- TYPE_READ (R80). -/
def execTypeRead (s : State) : Result := respond .ok s.ctype s

/-- TYPE_FLAGS (R81). -/
def execTypeFlags (s : State) : Result := respond .ok (flags s.ctype) s

end Sys2Proof.Machine
end

