-- ==== Sys2Proof/Machine/Dispatch.lean ====
section
/-! DEFINITION. One arm per command: each calls its own meaning. -/

namespace Sys2Proof.Machine

/-- The effect of a legal command. -/
def exec (i : Instr) (s : State) : Host.Outcome State Fault Refusal :=
  match i with
  | .nop => Sys2Proof.Machine.execNop s
  | .crcInit => Sys2Proof.Machine.execCrcInit s
  | .crcByte b => Sys2Proof.Machine.execCrcByte b s
  | .crcWord w => Sys2Proof.Machine.execCrcWord w s
  | .crcRead => Sys2Proof.Machine.execCrcRead s
  | .crcCheck w => Sys2Proof.Machine.execCrcCheck w s
  | .typeLoad t => Sys2Proof.Machine.execTypeLoad t s
  | .typeLoadc t => Sys2Proof.Machine.execTypeLoadc t s
  | .typeRead => Sys2Proof.Machine.execTypeRead s
  | .typeFlags => Sys2Proof.Machine.execTypeFlags s
  | .chunkStart t => Sys2Proof.Machine.execChunkStart t s
  | .cntRead => Sys2Proof.Machine.execCntRead s
  | .errRead => Sys2Proof.Machine.execErrRead s
  | .errClear => Sys2Proof.Machine.execErrClear s
  | .sreset => Sys2Proof.Machine.execSreset s

end Sys2Proof.Machine
end

