-- ==== Sys2Proof/Machine/Step.lean ====
section
/-! DEFINITION. One step: one transaction of the host (00_scope.md R7, 20_memory.md R48), and the host's way to place one
command before the next step. -/

namespace Sys2Proof.Machine

/-- The effect of what the host presents. Decoding comes first (60_exceptions.md R132). -/
def take (e : HostEvent) (s : State) : Host.Outcome State Fault Refusal :=
  match e with
  | .reset => takeReset s
  | .command c =>
    match decode c with
    | .legal i => exec i s
    | .illegal r => execIllegal r s

/-- One step. With nothing presented no register changes and no response is delivered (log 3). -/
def step (s : State) : Host.Outcome State Fault Refusal :=
  match s.takeInput with
  | none => .next s.silent
  | some (e, s') => take e s'

/-- The command whose table word is `w` is what the host presents next; what it was going to present stays behind it
(log 4, log 5). -/
def State.withFetchWord (s : State) (nbits w : Nat) : State :=
  s.present (.command (Command.ofTableWord nbits w))

end Sys2Proof.Machine
end

