-- ==== Sys2Proof/Machine/HostSequences.lean ====
section
/-! DEFINITION. The host's sequences that realise the source's record operations: the pseudo-instructions' expansions
(30_encoding.md R58), generation, serialisation and verification (41_crc.md R101, R102), and boot
(70_reset_and_hazards.md R154). -/

namespace Sys2Proof.Machine

/-- The expansion of FEED (R58): a CRC_WORD for each four bytes, then a CRC_BYTE for each of the last n mod 4. -/
def feed : List Byte → List Instr
  | b0 :: b1 :: b2 :: b3 :: bs => .crcWord (packBytes b0 b1 b2 b3) :: feed bs
  | bs => bs.map .crcByte

/-- The expansion of CHUNK (R58). -/
def chunk (t : Word) (p : List Byte) : List Instr := .chunkStart t :: feed p

/-- The expansion of VERIFY (R58), which is also the command sequence of R102. -/
def verify (t : Word) (p : List Byte) (stored : Word) : List Instr := chunk t p ++ [.crcCheck stored]

/-- The command sequence of R101. -/
def generate (t : Word) (p : List Byte) : List Instr := chunk t p ++ [.crcRead, .cntRead]

/-- Commands as the host presents them. -/
def presented (is : List Instr) : List HostEvent := is.map fun i => .command (encode i)

/-- The source's serialisation of a record (R101): length, type, payload and CRC, the 32-bit fields big-endian (R42). -/
def serialise (length t : Word) (p : List Byte) (crc : Word) : List Byte :=
  wordBytes length ++ wordBytes t ++ p ++ wordBytes crc

/-- What the host concludes about a chunk (R102). -/
inductive ChunkVerdict
  | verified (crc : Word)
  | invalidChunkType
  | crcMismatch
  deriving DecidableEq, Repr

/-- The host's reading of the responses to `verify` (R102): bit 5 of CHUNK_START's `rdata` first, then the status of
CRC_CHECK, so that a chunk with both faults reports InvalidChunkType (log 13). -/
def verdict (rs : List Response) : Option ChunkVerdict :=
  match rs.head?, rs.getLast? with
  | some first, some last =>
    if !first.rdata.getLsbD 5 then some .invalidChunkType
    else if last.status = .crcMismatch then some .crcMismatch
    else some (.verified last.rdata)
  | _, _ => none

/-- The boot procedure (R154): reset or SRESET, then ERR_READ to confirm that `err` is 0. -/
def boot (bySreset : Bool) : List HostEvent :=
  (if bySreset then presented [.sreset] else [.reset]) ++ presented [.errRead]

/-- Run all that the host is going to present, one step for each (60_exceptions.md R141). Resets after the last command are
run too, and a run without a command is one: what such runs show is the model's choice (log 16). -/
def runInputs (s : State) : Result := Host.Core.run Sys2Proof.core s.inputs.length s

/-- The responses that `k` steps deliver, in order: each is the result of its own step (10_state.md R27). -/
def delivered : Nat → State → List Response
  | 0, _ => []
  | k + 1, s =>
    match step s with
    | .next t => t.output.toList ++ delivered k t
    | .fault _ => []
    | .refused _ => []

/-- The sequence of responses that a run of all the host presents shows (60_exceptions.md R141); empty for a run without a
command (log 16). -/
def runResponses (s : State) : List Response := delivered s.inputs.length s

end Sys2Proof.Machine
end

