-- ==== Sys2Proof/Machine/Assembler.lean ====
section
/-! DEFINITION. The assembler (30_encoding.md R57, R58): from a source line to the commands the host issues, with the
text of a line read as a list of characters. Points of the text that R57 and R58 leave open are fixed in log 12. -/

namespace Sys2Proof.Machine

/-- A command with its operand on `wdata`, and `wdata = 0` without one (R57); `none` where the assembler refuses. -/
def assembleCommand (c : SourceCommand) : Option Instr :=
  match c.check with
  | some _ => none
  | none => some (c.mnemonic.withOperand (BitVec.ofNat 32 ((c.operand.map Literal.value).getD 0)))

/-- The bytes a `<bytes>` operand stands for (R58). -/
def bytesOf : ByteText → List Byte
  | .string cs => cs.map fun c => BitVec.ofNat 8 c.toNat
  | .values ns => ns.map (BitVec.ofNat 8)

/-- The word a literal stands for. -/
def wordOf (l : Literal) : Word := BitVec.ofNat 32 l.value

/-- The commands of a source line (R57, R58); `none` where the assembler refuses it. -/
def assemble (l : SourceLine) : Option (List Instr) :=
  match l.check with
  | some _ => none
  | none =>
    match l with
    | .command c => (assembleCommand c).map fun i => [i]
    | .feed bs => some (feed (bytesOf bs))
    | .chunk t bs => some (chunk (wordOf t) (bytesOf bs))
    | .verify t bs crc => some (verify (wordOf t) (bytesOf bs) (wordOf crc))

/-! ## The text of a line -/

/-- The single quote. -/
def quoteChar : Char := Char.ofNat 0x27

/-- The double quote. -/
def doubleQuote : Char := Char.ofNat 0x22

/-- The upper-case spelling of each mnemonic (R53, R57). -/
def mnemonicText : Mnemonic → String
  | .nop => "NOP"
  | .crcInit => "CRC_INIT"
  | .crcByte => "CRC_BYTE"
  | .crcWord => "CRC_WORD"
  | .crcRead => "CRC_READ"
  | .crcCheck => "CRC_CHECK"
  | .typeLoad => "TYPE_LOAD"
  | .typeLoadc => "TYPE_LOADC"
  | .typeRead => "TYPE_READ"
  | .typeFlags => "TYPE_FLAGS"
  | .chunkStart => "CHUNK_START"
  | .cntRead => "CNT_READ"
  | .errRead => "ERR_READ"
  | .errClear => "ERR_CLEAR"
  | .sreset => "SRESET"

/-- All mnemonics, in the order of their `op` values. -/
def mnemonics : List Mnemonic :=
  [.nop, .crcInit, .crcByte, .crcWord, .crcRead, .crcCheck, .typeLoad, .typeLoadc, .typeRead, .typeFlags, .chunkStart,
   .cntRead, .errRead, .errClear, .sreset]

/-- The mnemonic a word spells. -/
def parseMnemonic (cs : List Char) : Option Mnemonic := mnemonics.find? fun m => (mnemonicText m).toList == cs

/-- The value of a digit in a base up to 16. -/
def digitValue (base : Nat) (c : Char) : Option Nat :=
  let n := c.toNat
  let v := if 0x30 ≤ n ∧ n ≤ 0x39 then n - 0x30
    else if 0x41 ≤ n ∧ n ≤ 0x46 then n - 0x41 + 10
    else if 0x61 ≤ n ∧ n ≤ 0x66 then n - 0x61 + 10
    else base
  if v < base then some v else none

/-- The value of digits, most significant first, going on from `acc`. -/
def digitsValue (base : Nat) : Nat → List Char → Option Nat
  | acc, [] => some acc
  | acc, c :: cs => (digitValue base c).bind fun v => digitsValue base (acc * base + v) cs

/-- A number: `0x` and hexadecimal digits, or decimal digits (R57). -/
def parseNumber (cs : List Char) : Option Nat :=
  match cs with
  | [] => none
  | ['0', 'x'] => none
  | '0' :: 'x' :: ds => digitsValue 16 0 ds
  | ds => digitsValue 10 0 ds

/-- An operand literal (R57). -/
def parseLiteral (cs : List Char) : Option Literal :=
  match cs with
  | [q, c, q'] =>
    if q = quoteChar ∧ q' = quoteChar then some (.character c) else (parseNumber cs).map .number
  | [q, a, b, c, d, q'] =>
    if q = quoteChar ∧ q' = quoteChar then some (.quoted a b c d) else (parseNumber cs).map .number
  | _ => (parseNumber cs).map .number

/-- Drop the spaces a list begins with. -/
def dropSpaces (cs : List Char) : List Char := cs.dropWhile (· == ' ')

/-- The text before the comma that ends a first operand, and the text after it. A quoted literal of four
characters may hold a comma. -/
def takeOperand (cs : List Char) : Option (List Char × List Char) :=
  let n := if cs.head? = some quoteChar then 6 else (cs.takeWhile (· != ',')).length
  match cs.drop n with
  | ',' :: rest => some (cs.take n, dropSpaces rest)
  | _ => none

/-- The operands of a text, each ended by its comma: at most `k` of them before the last. -/
def splitOperands : Nat → List Char → List (List Char)
  | 0, cs => [cs]
  | k + 1, cs =>
    match takeOperand cs with
    | none => [cs]
    | some (w, rest) => w :: splitOperands k rest

/-- Read every byte value of a list: numbers only, a quoted character is refused (log 12). -/
def parseNumbers : List (List Char) → Option (List Nat)
  | [] => some []
  | w :: ws => (parseNumber w).bind fun n => (parseNumbers ws).map (n :: ·)

/-- A double-quoted string at the head of a text, and what follows it. -/
def takeString (cs : List Char) : Option (List Char × List Char) :=
  match cs with
  | [] => none
  | q :: rest =>
    if q = doubleQuote then
      match rest.dropWhile (· != doubleQuote) with
      | [] => none
      | _ :: after => some (rest.takeWhile (· != doubleQuote), after)
    else none

/-- A `<bytes>` operand that is all of a text (R58). No bytes are written as an empty string, `""`; an empty list is
refused (log 12). -/
def parseBytes (cs : List Char) : Option ByteText :=
  match takeString cs with
  | some (str, []) => some (.string str)
  | some _ => none
  | none => (parseNumbers (splitOperands cs.length cs)).map .values

/-- `<bytes>, <crc>` (R58): the stored CRC is the last operand, and a list has at least one value before it (log 12). -/
def parseBytesAndCrc (cs : List Char) : Option (ByteText × Literal) :=
  match takeString cs with
  | some (str, ',' :: rest) => (parseLiteral (dropSpaces rest)).map fun l => (.string str, l)
  | some _ => none
  | none =>
    let ws := splitOperands cs.length cs
    (parseNumbers ws.dropLast).bind fun ns =>
      if ns.isEmpty then none
      else (parseLiteral (ws.getLast?.getD [])).map fun l => (.values ns, l)

/-- One line: a mnemonic, or the name of a pseudo-instruction, then one space and the operands (R57, R58). -/
def parseLine (cs : List Char) : Option SourceLine :=
  let name := cs.takeWhile (· != ' ')
  let rest := cs.dropWhile (· != ' ')
  match parseMnemonic name, rest with
  | some m, [] => some (.command ⟨m, none⟩)
  | some m, _ :: operand => (parseLiteral operand).map fun l => .command ⟨m, some l⟩
  | none, [] => none
  | none, _ :: operands =>
    if name = "FEED".toList then (parseBytes operands).map .feed
    else if name = "CHUNK".toList then
      (takeOperand operands).bind fun (t, bs) =>
        (parseLiteral t).bind fun tl => (parseBytes bs).map (.chunk tl)
    else if name = "VERIFY".toList then
      (takeOperand operands).bind fun (t, more) =>
        (parseLiteral t).bind fun tl => (parseBytesAndCrc more).map fun (bs, crc) => .verify tl bs crc
    else none

/-- From the text of a line to the commands of the host. -/
def assembleText (cs : List Char) : Option (List Instr) := (parseLine cs).bind assemble

/-- One upper-case hexadecimal digit. -/
def hexDigit (v : BitVec 4) : Char :=
  if v.toNat < 10 then Char.ofNat (0x30 + v.toNat) else Char.ofNat (0x41 + (v.toNat - 10))

/-- The first part of a listing line (R57): `cc wwwwwwww`, then two spaces, then the source text. -/
def listingLine (i : Instr) (source : List Char) : List Char :=
  let c := encode i
  [hexDigit (c.cmd.extractLsb' 4 4), hexDigit (c.cmd.extractLsb' 0 4), ' '] ++
  ([7, 6, 5, 4, 3, 2, 1, 0].map fun k => hexDigit (c.wdata.extractLsb' (4 * k) 4)) ++ [' ', ' '] ++ source

end Sys2Proof.Machine
end

