-- ==== Sys2Proof/Safety.lean ====
section
/-! DEFINITION. The terms the claims use: what a safe run is, what a command is allowed to
touch (10_state.md R29), the record-level reading of the block (41_crc.md R91, R97), and the host's duty within a chunk
(70_reset_and_hazards.md R156, R157). -/

namespace Sys2Proof.Machine

/-- A run is safe when it ends in a state: no fault and no refusal (60_exceptions.md R141). -/
def Safe (r : Result) : Prop := ∃ t, r = .next t

/-- Which registers a command reads (r) and writes (w). -/
structure Access where
  rCrc : Bool
  wCrc : Bool
  rCnt : Bool
  wCnt : Bool
  rCtype : Bool
  wCtype : Bool
  rErr : Bool
  wErr : Bool
  deriving DecidableEq, Repr

/-- The access summary of R29, row by row: crc (r, w), cnt (r, w), ctype (r, w), err (r, w). Setting a bit of `err` is a
write there. -/
def accessOf : Mnemonic → Access
  | .nop => ⟨false, false, false, false, false, false, false, false⟩
  | .crcInit => ⟨false, true, false, true, false, false, false, false⟩
  | .crcByte => ⟨true, true, true, true, false, false, false, false⟩
  | .crcWord => ⟨true, true, true, true, false, false, false, false⟩
  | .crcRead => ⟨true, false, false, false, false, false, false, false⟩
  | .crcCheck => ⟨true, false, false, false, false, false, false, true⟩
  | .typeLoad => ⟨false, false, false, false, false, true, false, false⟩
  | .typeLoadc => ⟨false, false, false, false, false, true, false, true⟩
  | .typeRead => ⟨false, false, false, false, true, false, false, false⟩
  | .typeFlags => ⟨false, false, false, false, true, false, false, false⟩
  | .chunkStart => ⟨false, true, false, true, false, true, false, false⟩
  | .cntRead => ⟨false, false, true, false, false, false, false, false⟩
  | .errRead => ⟨false, false, false, false, false, false, true, false⟩
  | .errClear => ⟨false, false, false, false, false, false, false, true⟩
  | .sreset => ⟨false, true, false, true, false, true, false, true⟩

/-- The bytes a command feeds to the CRC as payload (R95, R96). -/
def payloadOf : Instr → List Byte
  | .crcByte b => [b]
  | .crcWord w => wordBytes w
  | .nop | .crcInit | .crcRead | .crcCheck _ | .typeLoad _ | .typeLoadc _ | .typeRead | .typeFlags | .chunkStart _
  | .cntRead | .errRead | .errClear | .sreset => []

/-- A command that leaves the chunk being fed as it is: it neither starts a new CRC nor loads a type (R156, R157). -/
def keepsChunk : Instr → Bool
  | .crcInit | .chunkStart _ | .sreset | .typeLoad _ | .typeLoadc _ => false
  | .nop | .crcByte _ | .crcWord _ | .crcRead | .crcCheck _ | .typeRead | .typeFlags | .cntRead | .errRead
  | .errClear => true

/-- The block at the level of the source's records: the bytes the CRC covers, how many of them are payload, the type
word, and the errors reported since the last clear. Nothing here is a running value: the CRC is over the whole list of bytes (R91)
and the length is a count without a bound (R97). -/
structure Record where
  fed : List Byte
  payloadLength : Nat
  type : Word
  errors : List Status
  deriving DecidableEq, Repr

/-- Right after reset: nothing fed, the sentinel type, no error (R150). -/
def Record.reset : Record := ⟨[], 0, 0xFFFFFF00#32, []⟩

/-- A record after an error (R133). -/
def Record.report (r : Record) (st : Status) : Record := { r with errors := st :: r.errors }

/-- What a legal command does to a record, and its response. -/
def Record.exec (r : Record) : Instr → Record × Response
  | .nop => (r, ⟨.ok, 0#32⟩)
  | .crcInit => ({ r with fed := [], payloadLength := 0 }, ⟨.ok, 0#32⟩)
  | .crcByte b => ({ r with fed := r.fed ++ [b], payloadLength := r.payloadLength + 1 }, ⟨.ok, 0#32⟩)
  | .crcWord w => ({ r with fed := r.fed ++ wordBytes w, payloadLength := r.payloadLength + 4 }, ⟨.ok, 0#32⟩)
  | .crcRead => (r, ⟨.ok, crc32 r.fed⟩)
  | .crcCheck w =>
    if crc32 r.fed = w then (r, ⟨.ok, crc32 r.fed⟩)
    else (r.report .crcMismatch, ⟨.crcMismatch, crc32 r.fed⟩)
  | .typeLoad t => ({ r with type := t }, ⟨.ok, flags t⟩)
  | .typeLoadc t =>
    if validType t then ({ r with type := t }, ⟨.ok, flags t⟩)
    else (r.report .invalidType, ⟨.invalidType, flags t⟩)
  | .typeRead => (r, ⟨.ok, r.type⟩)
  | .typeFlags => (r, ⟨.ok, flags r.type⟩)
  | .chunkStart t => ({ r with fed := wordBytes t, payloadLength := 0, type := t }, ⟨.ok, flags t⟩)
  | .cntRead => (r, ⟨.ok, BitVec.ofNat 32 r.payloadLength⟩)
  | .errRead =>
    (r, ⟨.ok, (if .illegalCmd ∈ r.errors then 1#32 else 0#32) ||| (if .invalidType ∈ r.errors then 2#32 else 0#32) |||
      (if .crcMismatch ∈ r.errors then 4#32 else 0#32)⟩)
  | .errClear => ({ r with errors := [] }, ⟨.ok, 0#32⟩)
  | .sreset => (Record.reset, ⟨.ok, 0#32⟩)

/-- What the host's event does to a record, and the responses it draws: none for a reset, one for any command. -/
def Record.take (r : Record) : HostEvent → Record × List Response
  | .reset => (Record.reset, [])
  | .command c =>
    match decode c with
    | .legal i => ((r.exec i).1, [(r.exec i).2])
    | .illegal _ => (r.report .illegalCmd, [⟨.illegalCmd, 0#32⟩])

/-- A record after a list of events, and all the responses they draw. -/
def Record.run : Record → List HostEvent → Record × List Response
  | r, [] => (r, [])
  | r, e :: es =>
    let (r', out) := r.take e
    let (r'', more) := r'.run es
    (r'', out ++ more)

/-- The registers hold what a record says (R21, R22, R23, R25, R91, R97). -/
def Record.describes (r : Record) (s : State) : Prop :=
  s.crc = crcSeq crcInit r.fed ∧ s.cnt = BitVec.ofNat 32 r.payloadLength ∧ s.ctype = r.type ∧
  (s.err.getLsbD 0 = true ↔ .illegalCmd ∈ r.errors) ∧ (s.err.getLsbD 1 = true ↔ .invalidType ∈ r.errors) ∧
  (s.err.getLsbD 2 = true ↔ .crcMismatch ∈ r.errors)

/-- What R130 says a response may hold: 0 for ILLEGAL_CMD, and for INVALID_TYPE the flags of a type that is not valid. -/
def Response.lawful (r : Response) : Prop :=
  match r.status with
  | .ok => True
  | .illegalCmd => r.rdata = 0#32
  | .invalidType => ∃ t, r.rdata = flags t ∧ validType t = false
  | .crcMismatch => True

/-- Every response of a history is lawful, and every error bit that is set has a response of its status there (R25,
R130). -/
def State.accounted (s : State) (history : List Response) : Prop :=
  (∀ r ∈ history, r.lawful) ∧
  (s.err.getLsbD 0 = true → ∃ r ∈ history, r.status = .illegalCmd) ∧
  (s.err.getLsbD 1 = true → ∃ r ∈ history, r.status = .invalidType) ∧
  (s.err.getLsbD 2 = true → ∃ r ∈ history, r.status = .crcMismatch)

end Sys2Proof.Machine
end

