-- ==== Sys2Proof/Certificates/Slice0/Obligations.lean ====
section
/-! DEFINITION. The statements for the provers. Each names the rule of spec/ it formalises. Where a statement presents a
command at the ports it fixes `cmd` and leaves `wdata` free, so it covers the operand bits the command ignores. -/

open Sys2Proof Sys2Proof.Machine

/-! ## Decoding and stepping -/

/-- R56: the opcode map, for every operand word; no `wdata` makes a legal `cmd` illegal. -/
def Obligations.DecodeFollowsTheOpcodeMap : Prop :=
  (∀ c : Command, c.cmd.extractLsb' 4 4 ≠ 0#4 → ∃ r, decode c = .illegal r) ∧
  ∀ w : Word,
    decode ⟨0x00#8, w⟩ = .legal .nop ∧
    decode ⟨0x01#8, w⟩ = .legal .crcInit ∧
    decode ⟨0x02#8, w⟩ = .legal (.crcByte (w.extractLsb' 0 8)) ∧
    decode ⟨0x03#8, w⟩ = .legal (.crcWord w) ∧
    decode ⟨0x04#8, w⟩ = .legal .crcRead ∧
    decode ⟨0x05#8, w⟩ = .legal (.crcCheck w) ∧
    decode ⟨0x06#8, w⟩ = .legal (.typeLoad w) ∧
    decode ⟨0x07#8, w⟩ = .legal (.typeLoadc w) ∧
    decode ⟨0x08#8, w⟩ = .legal .typeRead ∧
    decode ⟨0x09#8, w⟩ = .legal .typeFlags ∧
    decode ⟨0x0A#8, w⟩ = .legal (.chunkStart w) ∧
    decode ⟨0x0B#8, w⟩ = .legal .cntRead ∧
    decode ⟨0x0C#8, w⟩ = .legal .errRead ∧
    decode ⟨0x0D#8, w⟩ = .legal .errClear ∧
    decode ⟨0x0E#8, w⟩ = .legal .sreset ∧
    (∃ r, decode ⟨0x0F#8, w⟩ = .illegal r)

/-- Words written out from the table of R53 decode to what they stand for; the place of `wdata` above the eight bits of
`cmd` is the model's choice (log 5). -/
def Obligations.WrittenOutTableWordsDecode : Prop :=
  decodeTableWord 8 0x00 = some .nop ∧
  decodeTableWord 8 0x02 = some (.crcByte 0x00#8) ∧
  decodeTableWord 40 0x000001FF02 = some (.crcByte 0xFF#8) ∧
  decodeTableWord 40 0x4945_4E44_03 = some (.crcWord 0x49454E44#32) ∧
  decodeTableWord 40 0x5275_5374_07 = some (.typeLoadc 0x52755374#32) ∧
  decodeTableWord 8 0x0E = some .sreset ∧
  decodeTableWord 8 0x0F = none ∧
  decodeTableWord 8 0x13 = none

/-- Decoding what the encoder writes gives the command back, with every operand (R53, R57). -/
def Obligations.DecodeOfEncode : Prop := ∀ i : Instr, decode (encode i) = .legal i

/-- Encoding what the decoder reads gives the ports' word back, with the operand bits that R52 ignores written as 0. -/
def Obligations.EncodeOfDecode : Prop :=
  ∀ (c : Command) (i : Instr), decode c = .legal i →
    (encode i).cmd = c.cmd ∧
    (c.cmd = 0x02#8 → (encode i).wdata = c.wdata &&& 0x000000FF#32) ∧
    (c.cmd ∈ [0x03#8, 0x05#8, 0x06#8, 0x07#8, 0x0A#8] → (encode i).wdata = c.wdata) ∧
    (c.cmd ∉ [0x02#8, 0x03#8, 0x05#8, 0x06#8, 0x07#8, 0x0A#8] → (encode i).wdata = 0#32)

/-- A step on a command that decodes to `i` is `exec i` once the command is consumed, and on an illegal one it is R134's
effect (00_scope.md section 3, 20_memory.md section 4). The host's list is the model's own (log 1); that nothing changes
when nothing is presented, and that such a step delivers no response, is the model's choice (log 3). -/
def Obligations.StepRunsTheDecodedCommand : Prop :=
  (∀ (s : State) (c : Command) (i : Instr) (es : List HostEvent), decode c = .legal i →
    step { s with inputs := .command c :: es } = exec i { s with inputs := es }) ∧
  (∀ (s : State) (c : Command) (r : IllegalReason) (es : List HostEvent), decode c = .illegal r →
    step { s with inputs := .command c :: es } = execIllegal r { s with inputs := es }) ∧
  (∀ s : State, s.inputs = [] → step s = .next { s with output := none })

/-- A word placed by `withFetchWord` is what the very next step runs (log 4, log 5). -/
def Obligations.PlacedWordRunsNext : Prop :=
  ∀ (s : State) (nbits w : Nat) (i : Instr), decodeTableWord nbits w = some i →
    step (s.withFetchWord nbits w) = exec i s

/-! ## Reset -/

/-- R150: `rst` sets every register to its reset value, all together, and returns no response. -/
def Obligations.RstSetsEveryRegister : Prop :=
  ∀ (s : State) (es : List HostEvent),
    step { s with inputs := .reset :: es } =
      .next { crc := 0xFFFFFFFF#32, cnt := 0x00000000#32, ctype := 0xFFFFFF00#32, err := 0b000#3,
              inputs := es, output := none }

/-- R152: the registers after `rst` and after SRESET are the same from any state, and are those of the state every run
begins in. -/
def Obligations.SresetAndRstAndPowerUpAgree : Prop :=
  ∀ (s : State) (w : Word) (es : List HostEvent), ∃ t u,
    step { s with inputs := .reset :: es } = .next t ∧
    step { s with inputs := .command ⟨0x0E#8, w⟩ :: es } = .next u ∧
    t.toRegisters = u.toRegisters ∧ t.toRegisters = State.reset.toRegisters

/-- R154's boot: `rst` or SRESET, then ERR_READ, answers OK with 0 from any state. -/
def Obligations.BootConfirmsErrClear : Prop :=
  ∀ (s : State) (bySreset : Bool), ∃ t,
    runInputs { s with inputs := boot bySreset } = .next t ∧
    t.toRegisters = State.reset.toRegisters ∧ t.output = some ⟨.ok, 0#32⟩

/-- What holds right after reset: the four values of R20, and the sentinel type, which has no property and is not valid
(R24). -/
def Obligations.ResetStateHoldsTheSentinel : Prop :=
  State.reset.crc = 0xFFFFFFFF#32 ∧ State.reset.cnt = 0#32 ∧ State.reset.ctype = 0xFFFFFF00#32 ∧
  State.reset.err = 0b000#3 ∧ wordBytes State.reset.ctype = [0xFF#8, 0xFF#8, 0xFF#8, 0x00#8] ∧
  flags State.reset.ctype = 0x00000000#32

/-! ## Control commands -/

/-- R115: NOP. -/
def Obligations.NopOnlyAnswers : Prop :=
  (∀ w : Word, decode ⟨0x00#8, w⟩ = .legal .nop) ∧
  ∀ s : State, exec .nop s = .next { s with output := some ⟨.ok, 0x00000000#32⟩ }

/-- R116: ERR_READ. -/
def Obligations.ErrReadAnswersErrZeroExtended : Prop :=
  (∀ w : Word, decode ⟨0x0C#8, w⟩ = .legal .errRead) ∧
  (∀ s : State, exec .errRead s = .next { s with output := some ⟨.ok, 0#29 ++ s.err⟩ }) ∧
  (∃ t, runInputs { State.reset with inputs :=
      [.command ⟨0x0F#8, 0#32⟩, .command ⟨0x07#8, 0x52757374#32⟩, .command ⟨0x0C#8, 0#32⟩] } = .next t ∧
    t.output = some ⟨.ok, 0x00000003#32⟩)

/-- R117: ERR_CLEAR. -/
def Obligations.ErrClearClearsAllBits : Prop :=
  (∀ w : Word, decode ⟨0x0D#8, w⟩ = .legal .errClear) ∧
  ∀ s : State, exec .errClear s =
    .next { s with err := 0b000#3, output := some ⟨.ok, 0x00000000#32⟩ }

/-- R118: SRESET. -/
def Obligations.SresetSetsEveryRegister : Prop :=
  (∀ w : Word, decode ⟨0x0E#8, w⟩ = .legal .sreset) ∧
  ∀ s : State, exec .sreset s =
    .next { crc := 0xFFFFFFFF#32, cnt := 0#32, ctype := 0xFFFFFF00#32, err := 0b000#3, inputs := s.inputs,
            output := some ⟨.ok, 0x00000000#32⟩ }

/-! ## CRC, chunk and counter commands -/

/-- R94: CRC_INIT. Twice is as good as once, and CRC_READ after it answers 0. -/
def Obligations.CrcInitStartsANewCrc : Prop :=
  (∀ w : Word, decode ⟨0x01#8, w⟩ = .legal .crcInit) ∧
  (∀ s : State, exec .crcInit s =
    .next { s with crc := 0xFFFFFFFF#32, cnt := 0#32, output := some ⟨.ok, 0x00000000#32⟩ }) ∧
  (∀ s : State, ∃ t u, runInputs { s with inputs := presented [.crcInit] } = .next t ∧
    runInputs { s with inputs := presented [.crcInit, .crcInit] } = .next u ∧ u.toRegisters = t.toRegisters) ∧
  (∀ s : State, ∃ t, runInputs { s with inputs := presented [.crcInit, .crcRead] } = .next t ∧
    t.output = some ⟨.ok, 0x00000000#32⟩)

/-- R95: CRC_BYTE. `wdata[31:8]` has no effect, `cnt` wraps, and the example from reset. -/
def Obligations.CrcByteFeedsOneByte : Prop :=
  (∀ w : Word, decode ⟨0x02#8, w⟩ = .legal (.crcByte (w.extractLsb' 0 8))) ∧
  (∀ (b : Byte) (s : State), exec (.crcByte b) s =
    .next { s with crc := crcByte s.crc b, cnt := s.cnt + 1#32,
                   output := some ⟨.ok, 0x00000000#32⟩ }) ∧
  (∀ (b : Byte) (s : State), ∃ t, exec (.crcByte b) { s with cnt := 0xFFFFFFFF#32 } = .next t ∧ t.cnt = 0#32) ∧
  (∃ t, step { State.reset with inputs := [.command ⟨0x02#8, 0#32⟩] } = .next t ∧
    t.crc = 0x2DFD1072#32 ∧ crcValue t.crc = 0xD202EF8D#32 ∧ t.cnt = 1#32)

/-- R96: CRC_WORD. It is equal to four CRC_BYTE commands, `cnt` wraps, and the example from reset. -/
def Obligations.CrcWordFeedsFourBytes : Prop :=
  (∀ w : Word, decode ⟨0x03#8, w⟩ = .legal (.crcWord w)) ∧
  (∀ (w : Word) (s : State), exec (.crcWord w) s =
    .next { s with
      crc := crcByte (crcByte (crcByte (crcByte s.crc (w.extractLsb' 24 8)) (w.extractLsb' 16 8))
        (w.extractLsb' 8 8)) (w.extractLsb' 0 8),
      cnt := s.cnt + 4#32, output := some ⟨.ok, 0x00000000#32⟩ }) ∧
  (∀ (w : Word) (s : State), ∃ t u, exec (.crcWord w) s = .next t ∧
    runInputs { s with inputs := presented [.crcByte (w.extractLsb' 24 8), .crcByte (w.extractLsb' 16 8),
      .crcByte (w.extractLsb' 8 8), .crcByte (w.extractLsb' 0 8)] } = .next u ∧ u.toRegisters = t.toRegisters) ∧
  (∀ (w : Word) (s : State), ∃ t, exec (.crcWord w) { s with cnt := 0xFFFFFFFE#32 } = .next t ∧ t.cnt = 2#32) ∧
  (∃ t, step { State.reset with inputs := [.command ⟨0x03#8, 0x49454E44#32⟩] } = .next t ∧
    t.crc = 0x51BD9F7D#32 ∧ crcValue t.crc = 0xAE426082#32 ∧ t.cnt = 4#32)

/-- R98: CRC_READ. The CRC is not disturbed; right after CRC_INIT or reset the answer is 0; the example. -/
def Obligations.CrcReadAnswersTheCrc : Prop :=
  (∀ w : Word, decode ⟨0x04#8, w⟩ = .legal .crcRead) ∧
  (∀ s : State, exec .crcRead s =
    .next { s with output := some ⟨.ok, s.crc ^^^ 0xFFFFFFFF#32⟩ }) ∧
  (∀ s : State, ∀ e ∈ [HostEvent.reset, .command ⟨0x01#8, 0#32⟩], ∃ t,
    runInputs { s with inputs := [e, .command ⟨0x04#8, 0#32⟩] } = .next t ∧
    t.output = some ⟨.ok, 0x00000000#32⟩) ∧
  (∀ s : State, ∃ t, runInputs { s with inputs := presented [.chunkStart 0x49454E44#32, .crcRead] } = .next t ∧
    t.output = some ⟨.ok, 0xAE426082#32⟩)

/-- R99: CRC_CHECK, in both outcomes; right after CRC_INIT it passes iff the operand is 0, a repeated check gives the same
status, and the example. -/
def Obligations.CrcCheckComparesAllBits : Prop :=
  (∀ w : Word, decode ⟨0x05#8, w⟩ = .legal (.crcCheck w)) ∧
  (∀ (w : Word) (s : State), s.crc ^^^ 0xFFFFFFFF#32 = w →
    exec (.crcCheck w) s = .next { s with output := some ⟨.ok, s.crc ^^^ 0xFFFFFFFF#32⟩ }) ∧
  (∀ (w : Word) (s : State), s.crc ^^^ 0xFFFFFFFF#32 ≠ w →
    exec (.crcCheck w) s =
      .next { s with err := s.err ||| 0b100#3,
                     output := some ⟨.crcMismatch, s.crc ^^^ 0xFFFFFFFF#32⟩ }) ∧
  (∀ (w : Word) (s : State), ∃ t r, runInputs { s with inputs := presented [.crcInit, .crcCheck w] } = .next t ∧
    t.output = some r ∧ (r.status = .ok ↔ w = 0#32)) ∧
  (∀ (w : Word) (s : State), ∃ t r, runInputs { s with inputs := presented [.crcCheck w, .crcCheck w] } = .next t ∧
    runResponses { s with inputs := presented [.crcCheck w, .crcCheck w] } = [r, r]) ∧
  (∀ s : State, ∃ t u, runInputs { s with inputs := presented [.chunkStart 0x49454E44#32, .crcCheck 0xAE426082#32] } = .next t ∧
    t.output = some ⟨.ok, 0xAE426082#32⟩ ∧
    runInputs { s with inputs := presented [.chunkStart 0x49454E44#32, .crcCheck 0xAE426083#32] } = .next u ∧
    u.output = some ⟨.crcMismatch, 0xAE426082#32⟩ ∧ u.err.getLsbD 2 = true)

/-- R100: CHUNK_START, for every type word, valid or not; the examples. -/
def Obligations.ChunkStartFeedsTheType : Prop :=
  (∀ w : Word, decode ⟨0x0A#8, w⟩ = .legal (.chunkStart w)) ∧
  (∀ (t : Word) (s : State), exec (.chunkStart t) s =
    .next { s with
      crc := crcByte (crcByte (crcByte (crcByte 0xFFFFFFFF#32 (byteAt t 0)) (byteAt t 1)) (byteAt t 2)) (byteAt t 3),
      cnt := 0#32, ctype := t, output := some ⟨.ok, flags t⟩ }) ∧
  (∃ t, step { State.reset with inputs := [.command ⟨0x0A#8, 0x52755374#32⟩] } = .next t ∧
    t.crc = 0x2B7BF6C3#32 ∧ t.cnt = 0#32 ∧ t.ctype = 0x52755374#32 ∧ t.output = some ⟨.ok, 0x00000F3D#32⟩) ∧
  (∃ t, step { State.reset with inputs := [.command ⟨0x0A#8, 0x52757374#32⟩] } = .next t ∧
    t.output = some ⟨.ok, 0x00000F19#32⟩)

/-- CHUNK_START is CRC_INIT, CRC_WORD of the type and TYPE_LOAD, but for `cnt` (41_crc.md section 2: the spec's own inference
from those commands' rules). -/
def Obligations.ChunkStartIsInitWordAndLoad : Prop :=
  ∀ (t : Word) (s : State), ∃ u v, exec (.chunkStart t) s = .next u ∧
    runInputs { s with inputs := presented [.crcInit, .crcWord t, .typeLoad t] } = .next v ∧
    v.toRegisters = { u.toRegisters with cnt := 4#32 }

/-- R106: CNT_READ. Right after CHUNK_START, CRC_INIT or reset it answers 0; after 2^32 payload bytes it answers 0; the
example's chunk has 42 payload bytes, and any chunk of that length answers 42. -/
def Obligations.CntReadAnswersThePayloadCount : Prop :=
  (∀ w : Word, decode ⟨0x0B#8, w⟩ = .legal .cntRead) ∧
  (∀ s : State, exec .cntRead s = .next { s with output := some ⟨.ok, s.cnt⟩ }) ∧
  (∀ s : State, ∀ t : Word, ∀ e ∈ [HostEvent.reset, .command ⟨0x01#8, 0#32⟩, .command ⟨0x0A#8, t⟩], ∃ u,
    runInputs { s with inputs := [e, .command ⟨0x0B#8, 0#32⟩] } = .next u ∧
    u.output = some ⟨.ok, 0#32⟩) ∧
  (∀ (s : State) (t : Word) (p : List Byte), p.length = 2 ^ 32 ∨ p.length = 42 → ∃ u,
    runInputs { s with inputs := presented (chunk t p ++ [.cntRead]) } = .next u ∧
    u.output = some ⟨.ok, if p.length = 42 then 0x0000002A#32 else 0#32⟩)

/-- R97: what each command and reset does to `cnt`; and between a CHUNK_START (or a CRC_INIT) and the next command that
sets it to 0, `cnt` is the number of payload bytes fed, modulo 2^32, the type bytes of CHUNK_START not counted. -/
def Obligations.CntCountsPayloadBytes : Prop :=
  (∀ (s : State) (i : Instr), ∃ t, exec i s = .next t ∧
    ((i = .crcInit ∨ (∃ w, i = .chunkStart w) ∨ i = .sreset) → t.cnt = 0#32) ∧
    ((∃ b, i = .crcByte b) → t.cnt = s.cnt + 1#32) ∧ ((∃ w, i = .crcWord w) → t.cnt = s.cnt + 4#32) ∧
    (i.mnemonic ∉ [.crcInit, .chunkStart, .sreset, .crcByte, .crcWord] → t.cnt = s.cnt)) ∧
  (∀ (s : State) (es : List HostEvent), ∃ t, step { s with inputs := .reset :: es } = .next t ∧ t.cnt = 0#32) ∧
  (∀ (s : State) (r : IllegalReason), ∃ t, execIllegal r s = .next t ∧ t.cnt = s.cnt) ∧
  (∀ (s : State) (start : Instr) (is : List Instr), (start = .crcInit ∨ ∃ w, start = .chunkStart w) →
    (∀ i ∈ is, i.mnemonic ∉ [.crcInit, .chunkStart, .sreset]) →
    ∃ t, runInputs { s with inputs := presented (start :: is) } = .next t ∧
      t.cnt = BitVec.ofNat 32 (is.flatMap payloadOf).length)

/-! ## Type commands and the extractor -/

/-- R78: TYPE_LOAD, for every word; the example from reset. -/
def Obligations.TypeLoadLoadsAnyWord : Prop :=
  (∀ w : Word, decode ⟨0x06#8, w⟩ = .legal (.typeLoad w)) ∧
  (∀ (t : Word) (s : State), exec (.typeLoad t) s =
    .next { s with ctype := t, output := some ⟨.ok, flags t⟩ }) ∧
  step { State.reset with inputs := [.command ⟨0x06#8, 0x52757374#32⟩] } =
    .next { State.reset with ctype := 0x52757374#32, output := some ⟨.ok, 0x00000F19#32⟩ }

/-- R79: TYPE_LOADC. A word of four letters whose third byte has bit 5 clear is loaded; any other is refused with
INVALID_TYPE, `ctype` kept and `err[1]` set; the example from reset. -/
def Obligations.TypeLoadcRefusesInvalidTypes : Prop :=
  (∀ w : Word, decode ⟨0x07#8, w⟩ = .legal (.typeLoadc w)) ∧
  (∀ (t : Word) (s : State), (∀ i : Fin 4, isLetter (byteAt t i) = true) → (byteAt t 2).getLsbD 5 = false →
    exec (.typeLoadc t) s = .next { s with ctype := t, output := some ⟨.ok, flags t⟩ }) ∧
  (∀ (t : Word) (s : State), ¬ ((∀ i : Fin 4, isLetter (byteAt t i) = true) ∧ (byteAt t 2).getLsbD 5 = false) →
    exec (.typeLoadc t) s =
      .next { s with err := s.err ||| 0b010#3, output := some ⟨.invalidType, flags t⟩ }) ∧
  step { State.reset with inputs := [.command ⟨0x07#8, 0x52757374#32⟩] } =
    .next { State.reset with err := 0b010#3, output := some ⟨.invalidType, 0x00000F19#32⟩ }

/-- R80: TYPE_READ answers `ctype`; right after reset that is the sentinel; the example. -/
def Obligations.TypeReadAnswersTheTypeWord : Prop :=
  (∀ w : Word, decode ⟨0x08#8, w⟩ = .legal .typeRead) ∧
  (∀ s : State, exec .typeRead s = .next { s with output := some ⟨.ok, s.ctype⟩ }) ∧
  exec .typeRead State.reset = .next { State.reset with output := some ⟨.ok, 0xFFFFFF00#32⟩ } ∧
  (∀ s : State, ∃ t, runInputs { s with inputs := presented [.typeLoad 0x52755374#32, .typeRead] } = .next t ∧
    t.output = some ⟨.ok, 0x52755374#32⟩)

/-- R81: TYPE_FLAGS answers the flags of `ctype`; right after reset that is 0; the example. -/
def Obligations.TypeFlagsAnswersTheProperties : Prop :=
  (∀ w : Word, decode ⟨0x09#8, w⟩ = .legal .typeFlags) ∧
  (∀ s : State, exec .typeFlags s = .next { s with output := some ⟨.ok, flags s.ctype⟩ }) ∧
  exec .typeFlags State.reset = .next { State.reset with output := some ⟨.ok, 0x00000000#32⟩ } ∧
  (∀ s : State, ∃ t, runInputs { s with inputs := presented [.typeLoad 0x52755374#32, .typeFlags] } = .next t ∧
    t.output = some ⟨.ok, 0x00000F3D#32⟩)

/-- R71 to R77: every bit of the flags word in terms of the bits of the type word, for every word, letters or not. -/
def Obligations.FlagsWordBitByBit : Prop :=
  ∀ t : Word,
    (flags t).getLsbD 0 = !t.getLsbD 29 ∧ (flags t).getLsbD 1 = !t.getLsbD 21 ∧
    (flags t).getLsbD 2 = !t.getLsbD 13 ∧ (flags t).getLsbD 3 = t.getLsbD 5 ∧
    (flags t).getLsbD 4 = (isLetter (t.extractLsb' 24 8) && isLetter (t.extractLsb' 16 8) &&
      isLetter (t.extractLsb' 8 8) && isLetter (t.extractLsb' 0 8)) ∧
    (flags t).getLsbD 5 = ((flags t).getLsbD 4 && !t.getLsbD 13) ∧
    (flags t).getLsbD 8 = isLetter (t.extractLsb' 24 8) ∧ (flags t).getLsbD 9 = isLetter (t.extractLsb' 16 8) ∧
    (flags t).getLsbD 10 = isLetter (t.extractLsb' 8 8) ∧ (flags t).getLsbD 11 = isLetter (t.extractLsb' 0 8) ∧
    (∀ k, k = 6 ∨ k = 7 ∨ 12 ≤ k → (flags t).getLsbD k = false)

/-- R70: exactly the 52 codes of `A`..`Z` and `a`..`z` are letters; the six codes between the ranges and every byte from
0x80 up are not. -/
def Obligations.LettersAreTheFiftyTwoCodes : Prop :=
  (∀ b : Byte, isLetter b = true ↔ (0x41#8 ≤ b ∧ b ≤ 0x5A#8) ∨ (0x61#8 ≤ b ∧ b ≤ 0x7A#8)) ∧
  ((List.range 256).countP fun n => isLetter (BitVec.ofNat 8 n)) = 52 ∧
  (∀ b : Byte, (0x5B#8 ≤ b ∧ b ≤ 0x60#8) ∨ 0x80#8 ≤ b → isLetter b = false)

/-- TYPE_READ gives back the last word a type command wrote, through any commands that write no type (R23: "write-any,
read-back-exact"). -/
def Obligations.TypeReadBackIsExact : Prop :=
  ∀ (s : State) (t : Word) (load : Instr) (is : List Instr), (load = .typeLoad t ∨ load = .chunkStart t) →
    (∀ i ∈ is, i.mnemonic ∉ [.typeLoad, .typeLoadc, .chunkStart, .sreset]) →
    ∃ u, runInputs { s with inputs := presented (load :: is ++ [.typeRead]) } = .next u ∧
      u.output = some ⟨.ok, t⟩

/-! ## CRC arithmetic and byte order -/

/-- R43, with the byte numbering of R10 and the packing of R42: byte i of a word in file order; four stream bytes packed
big-endian come back in stream order, a word is the packing of its bytes, and a packed word enters the CRC in stream order,
as the operand of CRC_WORD and as the type word of CHUNK_START. -/
def Obligations.PackedWordsEnterInStreamOrder : Prop :=
  (∀ t : Word, byteAt t 0 = t.extractLsb' 24 8 ∧ byteAt t 1 = t.extractLsb' 16 8 ∧
    byteAt t 2 = t.extractLsb' 8 8 ∧ byteAt t 3 = t.extractLsb' 0 8) ∧
  (∀ b0 b1 b2 b3 : Byte, wordBytes (packBytes b0 b1 b2 b3) = [b0, b1, b2, b3]) ∧
  (∀ w : Word, packBytes (w.extractLsb' 24 8) (w.extractLsb' 16 8) (w.extractLsb' 8 8) (w.extractLsb' 0 8) = w) ∧
  (∀ (s : State) (b0 b1 b2 b3 : Byte), ∃ t u,
    exec (.crcWord (packBytes b0 b1 b2 b3)) s = .next t ∧ t.crc = crcSeq s.crc [b0, b1, b2, b3] ∧
    exec (.chunkStart (packBytes b0 b1 b2 b3)) s = .next u ∧ u.crc = crcSeq 0xFFFFFFFF#32 [b0, b1, b2, b3])

/-- The table form of the byte step, for every remainder and byte, and the listed table entries (41_crc.md section 1: the
spec takes the equivalence from general knowledge). -/
def Obligations.ByteStepHasATableForm : Prop :=
  (∀ (c : Word) (b : Byte), crcByte c b = crcByteByTable c b) ∧
  crcTable 0#8 = 0x00000000#32 ∧ crcTable 1#8 = 0x77073096#32 ∧ crcTable 2#8 = 0xEE0E612C#32 ∧
  crcTable 3#8 = 0x990951BA#32 ∧ crcTable 8#8 = 0x0EDB8832#32 ∧ crcTable 16#8 = 0x1DB71064#32 ∧
  crcTable 64#8 = 0x76DC4190#32 ∧ crcTable 128#8 = 0xEDB88320#32 ∧ crcTable 255#8 = 0x2D02EF8D#32

/-- The check value over "123456789" (00_scope.md section 1: from general knowledge), the CRC of no bytes, and the CRCs of
two chunks with no payload. -/
def Obligations.CrcCheckValues : Prop :=
  crc32 [0x31#8, 0x32#8, 0x33#8, 0x34#8, 0x35#8, 0x36#8, 0x37#8, 0x38#8, 0x39#8] = 0xCBF43926#32 ∧
  crc32 [] = 0x00000000#32 ∧
  chunkCrc 0x49454E44#32 [] = 0xAE426082#32 ∧ chunkCrc 0x52755374#32 [] = 0xD484093C#32

/-- R103: two sequences of equal length that differ in exactly one byte have different CRCs; so verifying a chunk, one
byte of whose type or payload was altered, against the original CRC gives CRC_MISMATCH. -/
def Obligations.SingleByteCorruptionIsDetected : Prop :=
  (∀ (l r : List Byte) (a b : Byte), a ≠ b → crc32 (l ++ a :: r) ≠ crc32 (l ++ b :: r)) ∧
  (∀ (s : State) (t t' : Word) (p p' l r : List Byte) (a b : Byte), a ≠ b →
    wordBytes t ++ p = l ++ a :: r → wordBytes t' ++ p' = l ++ b :: r →
    ∃ u x, runInputs { s with inputs := presented (verify t' p' (chunkCrc t p)) } = .next u ∧
      u.output = some ⟨.crcMismatch, x⟩ ∧ u.err.getLsbD 2 = true)

/-! ## Statuses and errors -/

/-- R55: exactly the encodings with `cmd[7:4]` not 0, and 0x0F, are illegal, 241 of the 256 values; such a command changes
no register except `err[0]` and answers (ILLEGAL_CMD, 0). -/
def Obligations.IllegalEncodings : Prop :=
  (∀ c : Command, (∃ r, decode c = .illegal r) ↔ c.cmd.extractLsb' 4 4 ≠ 0#4 ∨ c.cmd = 0x0F#8) ∧
  (∀ w : Word, ((List.range 256).countP fun n => (decode ⟨BitVec.ofNat 8 n, w⟩).toOption.isNone) = 241) ∧
  (∀ (s : State) (c : Command) (es : List HostEvent), c.cmd.extractLsb' 4 4 ≠ 0#4 ∨ c.cmd = 0x0F#8 →
    ∃ t, step { s with inputs := .command c :: es } = .next t ∧
      t.output = some ⟨.illegalCmd, 0x00000000#32⟩ ∧
      t.crc = s.crc ∧ t.cnt = s.cnt ∧ t.ctype = s.ctype ∧
      t.err.getLsbD 1 = s.err.getLsbD 1 ∧ t.err.getLsbD 2 = s.err.getLsbD 2)

/-- R134: an illegal command, for every illegal `cmd` and every `wdata`, and the example from reset. -/
def Obligations.IllegalCommandSetsErrZero : Prop :=
  (∀ (s : State) (c : Command) (es : List HostEvent), c.cmd.extractLsb' 4 4 ≠ 0#4 ∨ c.cmd = 0x0F#8 →
    step { s with inputs := .command c :: es } =
      .next { s with err := s.err ||| 0b001#3, inputs := es,
                     output := some ⟨.illegalCmd, 0x00000000#32⟩ }) ∧
  step { State.reset with inputs := [.command ⟨0x1F#8, 0#32⟩] } =
    .next { State.reset with err := 0b001#3, output := some ⟨.illegalCmd, 0x00000000#32⟩ }

/-- R130, R132: the cause of each status, its code, and the value recorded; decoding comes first, and no command gives two
statuses. -/
def Obligations.StatusHasItsCause : Prop :=
  (Status.ok.code = 0b00#2 ∧ Status.illegalCmd.code = 0b01#2 ∧ Status.invalidType.code = 0b10#2 ∧
    Status.crcMismatch.code = 0b11#2) ∧
  ∀ (s : State) (c : Command) (es : List HostEvent), ∃ t r,
    step { s with inputs := .command c :: es } = .next t ∧ t.output = some r ∧
    (r.status = .illegalCmd ↔ c.cmd.extractLsb' 4 4 ≠ 0#4 ∨ c.cmd = 0x0F#8) ∧
    (r.status = .invalidType ↔ c.cmd = 0x07#8 ∧ validType c.wdata = false) ∧
    (r.status = .crcMismatch ↔ c.cmd = 0x05#8 ∧ s.crc ^^^ 0xFFFFFFFF#32 ≠ c.wdata) ∧
    (r.status = .illegalCmd → r.rdata = 0#32 ∧ t.crc = s.crc ∧ t.cnt = s.cnt ∧ t.ctype = s.ctype) ∧
    (r.status = .invalidType → r.rdata = flags c.wdata) ∧
    (r.status = .crcMismatch → r.rdata = s.crc ^^^ 0xFFFFFFFF#32)

/-- R133: a non-OK status sets its one bit of `err` and nothing else there; a command that returns OK never changes `err`,
except ERR_CLEAR and SRESET. -/
def Obligations.ErrIsSticky : Prop :=
  ∀ (s : State) (c : Command) (es : List HostEvent), ∃ t r,
    step { s with inputs := .command c :: es } = .next t ∧ t.output = some r ∧
    (r.status = .illegalCmd → t.err = s.err ||| 0b001#3) ∧ (r.status = .invalidType → t.err = s.err ||| 0b010#3) ∧
    (r.status = .crcMismatch → t.err = s.err ||| 0b100#3) ∧
    (r.status = .ok → c.cmd ≠ 0x0D#8 → c.cmd ≠ 0x0E#8 → t.err = s.err)

/-- Errors are precise (60_exceptions.md section 2): a non-OK status changes nothing but `err` and consumes the command. -/
def Obligations.ErrorsArePrecise : Prop :=
  ∀ (s : State) (c : Command) (es : List HostEvent), ∃ t r,
    step { s with inputs := .command c :: es } = .next t ∧
    t.output = some r ∧
    (r.status ≠ .ok → t = { s with err := s.err ||| r.status.errMask, inputs := es, output := some r })

/-- R136: an error does not affect the execution of later commands. From states that differ only in `err`, any events give
the same `crc`, `cnt` and `ctype`, and, where none is an ERR_READ, the same responses. -/
def Obligations.ErrorsDoNotAffectLaterCommands : Prop :=
  ∀ (s : State) (v : BitVec 3) (es : List HostEvent), ∃ t u,
    runInputs { s with inputs := es } = .next t ∧ runInputs { s with err := v, inputs := es } = .next u ∧
    u.crc = t.crc ∧ u.cnt = t.cnt ∧ u.ctype = t.ctype ∧
    ((∀ w : Word, .command ⟨0x0C#8, w⟩ ∉ es) →
      runResponses { s with err := v, inputs := es } = runResponses { s with inputs := es })

/-- Every response delivered so far is one R130 allows, and every set bit of `err` has a response of its status among them
(R25): every step keeps that, from any state and history that have it; that a step with nothing presented does is the model's choice
(log 3). -/
def Obligations.StepKeepsErrAccounted : Prop :=
  ∀ (s t : State) (history : List Response), s.accounted history → step s = .next t →
    t.accounted (history ++ t.output.toList)

/-- The reset state has that invariant, with nothing delivered yet. -/
def Obligations.ResetIsErrAccounted : Prop := State.reset.accounted []

/-! ## Rules of the whole machine -/

/-- R54: every command, legal or not, returns exactly one response, with `rdata` as the table of R53 names it; a reset
returns none. -/
def Obligations.EveryCommandAnswersOnce : Prop :=
  (∀ (s : State) (c : Command) (es : List HostEvent), ∃ t r,
    step { s with inputs := .command c :: es } = .next t ∧ t.inputs = es ∧ t.output = some r ∧
    r.rdata =
      (if c.cmd = 0x04#8 ∨ c.cmd = 0x05#8 then s.crc ^^^ 0xFFFFFFFF#32
       else if c.cmd = 0x06#8 ∨ c.cmd = 0x07#8 ∨ c.cmd = 0x0A#8 then flags c.wdata
       else if c.cmd = 0x08#8 then s.ctype
       else if c.cmd = 0x09#8 then flags s.ctype
       else if c.cmd = 0x0B#8 then s.cnt
       else if c.cmd = 0x0C#8 then s.err.setWidth 32
       else 0#32)) ∧
  (∀ (s : State) (es : List HostEvent), ∃ t,
    step { s with inputs := .reset :: es } = .next t ∧ t.inputs = es ∧ t.output = none)

/-- Every finite sequence of commands and resets runs to its end (60_exceptions.md section 4), with one response for each command; nothing is
stuck, faulted or halted. That a reset after the last command belongs to the run is the model's choice (log 16). -/
def Obligations.EveryRunCompletes : Prop :=
  ∀ (s : State) (es : List HostEvent), ∃ t,
    runInputs { s with inputs := es } = .next t ∧ t.inputs = [] ∧
    (runResponses { s with inputs := es }).length = es.countP (fun e => e != .reset)

/-- The write columns of the access summary (10_state.md section 3): a command changes only the registers it is listed as
writing. -/
def Obligations.CommandsWriteOnlyTheirRegisters : Prop :=
  ∀ (i : Instr) (s : State), ∃ t, exec i s = .next t ∧ t.inputs = s.inputs ∧
    ((accessOf i.mnemonic).wCrc = false → t.crc = s.crc) ∧ ((accessOf i.mnemonic).wCnt = false → t.cnt = s.cnt) ∧
    ((accessOf i.mnemonic).wCtype = false → t.ctype = s.ctype) ∧ ((accessOf i.mnemonic).wErr = false → t.err = s.err)

/-- The read columns of the access summary (10_state.md section 3): a register a command is not listed as reading
influences neither its response nor any other register. -/
def Obligations.CommandsReadOnlyTheirRegisters : Prop :=
  ∀ (i : Instr) (s : State),
    ((accessOf i.mnemonic).rCrc = false → ∀ v, ∃ t u, exec i s = .next t ∧ exec i { s with crc := v } = .next u ∧
      u = { t with crc := if (accessOf i.mnemonic).wCrc then t.crc else v }) ∧
    ((accessOf i.mnemonic).rCnt = false → ∀ v, ∃ t u, exec i s = .next t ∧ exec i { s with cnt := v } = .next u ∧
      u = { t with cnt := if (accessOf i.mnemonic).wCnt then t.cnt else v }) ∧
    ((accessOf i.mnemonic).rCtype = false → ∀ v, ∃ t u, exec i s = .next t ∧ exec i { s with ctype := v } = .next u ∧
      u = { t with ctype := u.ctype } ∧ (u.ctype = t.ctype ∨ (u.ctype = v ∧ t.ctype = s.ctype)) ∧
      ((accessOf i.mnemonic).wCtype = false → u.ctype = v)) ∧
    ((accessOf i.mnemonic).rErr = false → ∀ v, ∃ t u, exec i s = .next t ∧ exec i { s with err := v } = .next u ∧
      u = { t with err := u.err })

/-- The block is deterministic (60_exceptions.md section 4): the response and the next registers are functions of the
registers and the command alone. No step reads an earlier response (10_state.md section 2) or what is presented later: the
port is no state of the block (log 1, log 2). -/
def Obligations.StepDependsOnRegistersAndCommandAlone : Prop :=
  ∀ (s s' : State) (e : HostEvent) (es es' : List HostEvent), s.toRegisters = s'.toRegisters → ∃ t t',
    step { s with inputs := e :: es } = .next t ∧ step { s' with inputs := e :: es' } = .next t' ∧
    t.toRegisters = t'.toRegisters ∧ t.inputs = es ∧ t'.inputs = es' ∧
    t.output = t'.output

/-- The commands that only read (20_memory.md section 3): any number of them leaves the registers unchanged and answers
the same each time; and repeating CRC_CHECK changes nothing after the first. -/
def Obligations.ReadCommandsHaveNoSideEffect : Prop :=
  (∀ (s : State), ∀ i ∈ [Instr.nop, .crcRead, .typeRead, .typeFlags, .cntRead, .errRead], ∃ r, ∀ n, ∃ t,
    runInputs { s with inputs := presented (List.replicate n i) } = .next t ∧ t.toRegisters = s.toRegisters ∧
    runResponses { s with inputs := presented (List.replicate n i) } = List.replicate n r) ∧
  (∀ (s : State) (w : Word), ∃ r e, ∀ n, ∃ t,
    runInputs { s with inputs := presented (List.replicate (n + 1) (.crcCheck w)) } = .next t ∧
    t.toRegisters = { s.toRegisters with err := e } ∧
    runResponses { s with inputs := presented (List.replicate (n + 1) (.crcCheck w)) } = List.replicate (n + 1) r)

/-- R155: a command behaves as if any number of NOPs stood before it; for example, CRC_READ right after CRC_BYTE answers
the CRC with that byte. -/
def Obligations.NopsBetweenCommandsChangeNothing : Prop :=
  (∀ (s : State) (es es' : List HostEvent) (n : Nat) (w : Word), ∃ t u out,
    runInputs { s with inputs := es ++ es' } = .next t ∧
    runInputs { s with inputs := es ++ List.replicate n (.command ⟨0x00#8, w⟩) ++ es' } = .next u ∧
    u.toRegisters = t.toRegisters ∧
    runResponses { s with inputs := es ++ es' } = runResponses { s with inputs := es } ++ out ∧
    runResponses { s with inputs := es ++ List.replicate n (.command ⟨0x00#8, w⟩) ++ es' } =
      runResponses { s with inputs := es } ++ List.replicate n ⟨.ok, 0#32⟩ ++ out) ∧
  (∀ (s : State) (b : Byte), ∃ t, runInputs { s with inputs := presented [.crcByte b, .crcRead] } = .next t ∧
    t.output = some ⟨.ok, crcByte s.crc b ^^^ 0xFFFFFFFF#32⟩)

/-! ## Streams and records -/

/-- Feeding by words and by bytes agree (20_memory.md section 2): two lists of feeding commands that carry the same bytes
leave the same registers. -/
def Obligations.SplitDoesNotMatter : Prop :=
  ∀ (s : State) (is js : List Instr), (∀ i ∈ is ++ js, i.mnemonic ∈ [.crcByte, .crcWord]) →
    is.flatMap payloadOf = js.flatMap payloadOf → ∃ t u,
      runInputs { s with inputs := presented is } = .next t ∧ runInputs { s with inputs := presented js } = .next u ∧
      t.toRegisters = u.toRegisters

/-- R58: what FEED, CHUNK and VERIFY expand to: words for the first bytes, four at a time, then the last n mod 4 bytes. -/
def Obligations.PseudoInstructionsExpand : Prop :=
  (∀ bs : List Byte, (feed bs).length = bs.length / 4 + bs.length % 4 ∧
    (∀ k, k < bs.length / 4 → ∃ b0 b1 b2 b3,
      bs[4 * k]? = some b0 ∧ bs[4 * k + 1]? = some b1 ∧ bs[4 * k + 2]? = some b2 ∧ bs[4 * k + 3]? = some b3 ∧
      (feed bs)[k]? = some (.crcWord (packBytes b0 b1 b2 b3))) ∧
    (∀ j, j < bs.length % 4 → ∃ b, bs[4 * (bs.length / 4) + j]? = some b ∧
      (feed bs)[bs.length / 4 + j]? = some (.crcByte b))) ∧
  (∀ bs : ByteText, bs.check = none → assemble (.feed bs) = some (feed (bytesOf bs))) ∧
  (∀ (t : Literal) (bs : ByteText), (SourceLine.chunk t bs).check = none →
    assemble (.chunk t bs) = some (.chunkStart (wordOf t) :: feed (bytesOf bs))) ∧
  (∀ (t : Literal) (bs : ByteText) (crc : Literal), (SourceLine.verify t bs crc).check = none →
    assemble (.verify t bs crc) =
      some (.chunkStart (wordOf t) :: feed (bytesOf bs) ++ [.crcCheck (wordOf crc)]))

/-- The assembler (30_encoding.md section 5): a source command that passes the check assembles to the mnemonic's `cmd` with
the operand's value, which fits the shape, or 0 without one; an operand on a command that takes none is refused, and a
number is accepted exactly where it fits. For numbers alone is it said here which are accepted; a quoted or a character
operand comes under the check. That a missing operand is refused is the model's choice (log 12). -/
def Obligations.AssemblerAcceptsWhatFits : Prop :=
  (∀ c : SourceCommand, c.check = none → ∃ i, assembleCommand c = some i ∧
    encode i = ⟨c.mnemonic.cmd, BitVec.ofNat 32 ((c.operand.map Literal.value).getD 0)⟩ ∧
    ∀ l, c.operand = some l → l.value < 2 ^ c.mnemonic.shape.width) ∧
  (∀ (m : Mnemonic) (l : Literal), m.shape = .none → assembleCommand ⟨m, some l⟩ = none) ∧
  (∀ m : Mnemonic, m.shape ≠ .none → assembleCommand ⟨m, none⟩ = none) ∧
  (∀ (m : Mnemonic) (n : Nat), m.shape ≠ .none →
    ((assembleCommand ⟨m, some (.number n)⟩).isSome ↔ n < 2 ^ m.shape.width))

/-- FEED feeds its bytes in order, whatever the state: the CRC goes on over them and `cnt` by their number. From reset
that is their CRC (70_reset_and_hazards.md section 2). -/
def Obligations.FeedFeedsItsBytes : Prop :=
  (∀ (s : State) (bs : List Byte), ∃ t,
    runInputs { s with inputs := presented (feed bs) } = .next t ∧
    t.toRegisters = { s.toRegisters with crc := crcSeq s.crc bs, cnt := s.cnt + BitVec.ofNat 32 bs.length } ∧
    runResponses { s with inputs := presented (feed bs) } = List.replicate (feed bs).length ⟨.ok, 0#32⟩) ∧
  (∀ bs : List Byte, ∃ t, runInputs { State.reset with inputs := presented (feed bs ++ [.crcRead]) } = .next t ∧
    t.output = some ⟨.ok, crc32 bs⟩)

/-- Within a chunk, reads, checks and error commands do not disturb it, and `ctype` names the chunk whose bytes are in the
CRC (70_reset_and_hazards.md section 3). -/
def Obligations.ChunkSurvivesInterleavedReads : Prop :=
  ∀ (s : State) (t : Word) (is : List Instr), (∀ i ∈ is, keepsChunk i = true) →
    ∃ u, runInputs { s with inputs := presented (.chunkStart t :: is) } = .next u ∧ u.ctype = t ∧
      crcValue u.crc = chunkCrc t (is.flatMap payloadOf) ∧
      u.cnt = BitVec.ofNat 32 (is.flatMap payloadOf).length

/-- Bytes of two chunks fed into one CRC give the CRC over the concatenation, with status OK throughout
(70_reset_and_hazards.md section 3). -/
def Obligations.UnseparatedChunksConcatenate : Prop :=
  ∀ (s : State) (t : Word) (p q : List Byte),
    ∃ u, runInputs { s with inputs := presented (chunk t p ++ feed q ++ [.crcRead]) } = .next u ∧
      u.output = some ⟨.ok, chunkCrc t (p ++ q)⟩ ∧
      (∀ r ∈ runResponses { s with inputs := presented (chunk t p ++ feed q ++ [.crcRead]) }, r.status = .ok) ∧
      u.err = s.err

/-- Chunk generation (41_crc.md section 3), from any state: CHUNK_START and FEED, then CRC_READ answers the chunk's CRC and
CNT_READ the payload's length modulo 2^32. -/
def Obligations.GenerationAnswersCrcAndLength : Prop :=
  ∀ (s : State) (t : Word) (p : List Byte), ∃ u,
    runInputs { s with inputs := presented (generate t p) } = .next u ∧
    runResponses { s with inputs := presented (generate t p) } =
      ⟨.ok, flags t⟩ :: List.replicate (feed p).length ⟨.ok, 0#32⟩ ++
      [⟨.ok, chunkCrc t p⟩, ⟨.ok, BitVec.ofNat 32 p.length⟩] ∧ u.ctype = t ∧ u.err = s.err

/-- Chunk verification (41_crc.md section 3), from any state: the host's verdict is InvalidChunkType for a type that is not
valid, else CrcMismatch for a wrong stored CRC, else the chunk is verified (log 13). -/
def Obligations.VerificationVerdict : Prop :=
  ∀ (s : State) (t : Word) (p : List Byte) (stored : Word), ∃ u,
    runInputs { s with inputs := presented (verify t p stored) } = .next u ∧
    verdict (runResponses { s with inputs := presented (verify t p stored) }) = some (if validType t = false then .invalidChunkType
      else if chunkCrc t p ≠ stored then .crcMismatch else .verified (chunkCrc t p))

/-- The round trip (41_crc.md section 3): what generation answered verifies, from whatever state the verification starts,
and gives the same length. -/
def Obligations.GeneratedChunkVerifies : Prop :=
  ∀ (s s' : State) (t : Word) (p : List Byte), ∃ u r n u',
    runInputs { s with inputs := presented (generate t p) } = .next u ∧
    (runResponses { s with inputs := presented (generate t p) }).reverse.take 2 = [⟨.ok, n⟩, ⟨.ok, r⟩] ∧
    runInputs { s' with inputs := presented (verify t p r ++ [.cntRead]) } = .next u' ∧
    (runResponses { s' with inputs := presented (verify t p r ++ [.cntRead]) }).reverse.take 2 =
      [⟨.ok, n⟩, ⟨.ok, r⟩] ∧ u'.err = s'.err

/-- The block refines the record-level machine of Safety.lean, which keeps the whole list of fed bytes, an unbounded count,
the type word and the errors since the last clear: from any registers a record describes, any events give the registers
the later record describes and the responses the record-level machine gives. From reset this is R91's "the register crc
always holds crc_seq(0xFFFFFFFF, s) for the bytes s fed". -/
def Obligations.BlockRefinesTheRecordMachine : Prop :=
  (∀ (s : State) (r : Record) (es : List HostEvent), r.describes s → ∃ t,
    runInputs { s with inputs := es } = .next t ∧ (r.run es).1.describes t ∧
    runResponses { s with inputs := es } = (r.run es).2) ∧
  Record.reset.describes State.reset

/-- One step keeps the description, from every state a record describes, and delivers what the record-level machine
answers. Its first clause, a step with nothing presented, which changes no register and delivers nothing, is the model's
choice (log 3). -/
def Obligations.StepKeepsTheRecordDescription : Prop :=
  ∀ (s t : State) (r : Record), r.describes s → step s = .next t →
    (s.inputs = [] ∧ r.describes t ∧ t.output = none) ∨
    ∃ e es, s.inputs = e :: es ∧ (r.take e).1.describes t ∧ t.output.toList = (r.take e).2
end

