-- ==== Sys2Proof/Config.lean ====
section
/-! DEFINITION. What a platform fixes. The block itself has no configurable parameter (00_scope.md R6: "No rule takes a
configurable value"); the one open point is how its port is attached. -/

namespace Sys2Proof

/-- The ways 92_eei_decisions.md D3 names: "memory-mapped, a coprocessor, or a stream". -/
inductive PortAttachment
  | memoryMapped
  | coprocessor
  | stream
  deriving DecidableEq, Repr, Inhabited

/-- The parameter `PORT_ATTACHMENT`, left OPEN by the spec (R6, 20_memory.md R41). It has no body, and no definition of
the model reads it, as R6 says: "No rule of this spec reads it" (log 7). -/
opaque Config.portAttachment : PortAttachment

end Sys2Proof
end

