-- ==== Sys2Proof/Laws/Arith.lean ====
section
/-! SUPPORT. The small lemmas of the pure functions: byte order, CRC sequences, the validity bit, and the opcode map. -/

namespace Sys2Proof.Machine

@[simp] theorem wordBytes_length (w : Word) : (wordBytes w).length = 4 := rfl

@[simp] theorem crcSeq_nil (c : Word) : crcSeq c [] = c := rfl

@[simp] theorem crcSeq_cons (c : Word) (b : Byte) (bs : List Byte) : crcSeq c (b :: bs) = crcSeq (crcByte c b) bs := rfl

/-- Feeding one sequence after another is feeding their concatenation. -/
theorem crcSeq_append (c : Word) (p q : List Byte) : crcSeq c (p ++ q) = crcSeq (crcSeq c p) q := by
  induction p generalizing c with
  | nil => rfl
  | cons b bs ih => exact ih _

/-- A word is fed as its four bytes in stream order. -/
theorem crcWord_eq_crcSeq (c w : Word) : crcWord c w = crcSeq c (wordBytes w) := rfl

/-- Bit 5 of the flags word is the validity of the type. -/
theorem flags_valid_bit (t : Word) : (flags t).getLsbD 5 = validType t := by
  simp only [flags, flagBits, BitVec.getLsbD_setWidth, BitVec.getLsbD_append]
  simp

/-- The field `z` of every legal `cmd` is 0 (R51). -/
theorem cmd_z (m : Mnemonic) : m.cmd.extractLsb' 4 4 = 0#4 := by cases m <;> decide

/-- The opcode map reads each `cmd` of the table back as its mnemonic (R53). -/
theorem ofOp_cmd (m : Mnemonic) : Mnemonic.ofOp (m.cmd.extractLsb' 0 4) = some m := by cases m <;> decide

/-- Each mnemonic's `cmd` decodes to it, whatever the operand word. -/
theorem decode_cmd (m : Mnemonic) (w : Word) : decode ⟨m.cmd, w⟩ = .legal (m.withOperand w) := by
  simp [decode, Command.z, Command.op, cmd_z, ofOp_cmd]

end Sys2Proof.Machine
end

