-- ==== Sys2Proof/Laws/State.lean ====
section
/-! SUPPORT. One lemma per field and per update of the state, each true by definition, so that no proof unfolds a record
update. -/

namespace Sys2Proof.Machine

@[simp] theorem State.setCrc_crc (s : State) (v : Word) : (s.setCrc v).crc = v := rfl
@[simp] theorem State.setCrc_cnt (s : State) (v : Word) : (s.setCrc v).cnt = s.cnt := rfl
@[simp] theorem State.setCrc_ctype (s : State) (v : Word) : (s.setCrc v).ctype = s.ctype := rfl
@[simp] theorem State.setCrc_err (s : State) (v : Word) : (s.setCrc v).err = s.err := rfl
@[simp] theorem State.setCrc_inputs (s : State) (v : Word) : (s.setCrc v).inputs = s.inputs := rfl
@[simp] theorem State.setCrc_output (s : State) (v : Word) : (s.setCrc v).output = s.output := rfl

@[simp] theorem State.setCnt_crc (s : State) (v : Word) : (s.setCnt v).crc = s.crc := rfl
@[simp] theorem State.setCnt_cnt (s : State) (v : Word) : (s.setCnt v).cnt = v := rfl
@[simp] theorem State.setCnt_ctype (s : State) (v : Word) : (s.setCnt v).ctype = s.ctype := rfl
@[simp] theorem State.setCnt_err (s : State) (v : Word) : (s.setCnt v).err = s.err := rfl
@[simp] theorem State.setCnt_inputs (s : State) (v : Word) : (s.setCnt v).inputs = s.inputs := rfl
@[simp] theorem State.setCnt_output (s : State) (v : Word) : (s.setCnt v).output = s.output := rfl

@[simp] theorem State.setCtype_crc (s : State) (v : Word) : (s.setCtype v).crc = s.crc := rfl
@[simp] theorem State.setCtype_cnt (s : State) (v : Word) : (s.setCtype v).cnt = s.cnt := rfl
@[simp] theorem State.setCtype_ctype (s : State) (v : Word) : (s.setCtype v).ctype = v := rfl
@[simp] theorem State.setCtype_err (s : State) (v : Word) : (s.setCtype v).err = s.err := rfl
@[simp] theorem State.setCtype_inputs (s : State) (v : Word) : (s.setCtype v).inputs = s.inputs := rfl
@[simp] theorem State.setCtype_output (s : State) (v : Word) : (s.setCtype v).output = s.output := rfl

@[simp] theorem State.setErr_crc (s : State) (v : BitVec 3) : (s.setErr v).crc = s.crc := rfl
@[simp] theorem State.setErr_cnt (s : State) (v : BitVec 3) : (s.setErr v).cnt = s.cnt := rfl
@[simp] theorem State.setErr_ctype (s : State) (v : BitVec 3) : (s.setErr v).ctype = s.ctype := rfl
@[simp] theorem State.setErr_err (s : State) (v : BitVec 3) : (s.setErr v).err = v := rfl
@[simp] theorem State.setErr_inputs (s : State) (v : BitVec 3) : (s.setErr v).inputs = s.inputs := rfl
@[simp] theorem State.setErr_output (s : State) (v : BitVec 3) : (s.setErr v).output = s.output := rfl

@[simp] theorem State.setInputs_crc (s : State) (es : List HostEvent) : (s.setInputs es).crc = s.crc := rfl
@[simp] theorem State.setInputs_cnt (s : State) (es : List HostEvent) : (s.setInputs es).cnt = s.cnt := rfl
@[simp] theorem State.setInputs_ctype (s : State) (es : List HostEvent) : (s.setInputs es).ctype = s.ctype := rfl
@[simp] theorem State.setInputs_err (s : State) (es : List HostEvent) : (s.setInputs es).err = s.err := rfl
@[simp] theorem State.setInputs_inputs (s : State) (es : List HostEvent) : (s.setInputs es).inputs = es := rfl
@[simp] theorem State.setInputs_output (s : State) (es : List HostEvent) : (s.setInputs es).output = s.output := rfl

@[simp] theorem State.deliver_crc (s : State) (st : Status) (rd : Word) : (s.deliver st rd).crc = s.crc := rfl
@[simp] theorem State.deliver_cnt (s : State) (st : Status) (rd : Word) : (s.deliver st rd).cnt = s.cnt := rfl
@[simp] theorem State.deliver_ctype (s : State) (st : Status) (rd : Word) : (s.deliver st rd).ctype = s.ctype := rfl
@[simp] theorem State.deliver_err (s : State) (st : Status) (rd : Word) : (s.deliver st rd).err = s.err := rfl
@[simp] theorem State.deliver_inputs (s : State) (st : Status) (rd : Word) : (s.deliver st rd).inputs = s.inputs := rfl
@[simp] theorem State.deliver_output (s : State) (st : Status) (rd : Word) : (s.deliver st rd).output = some ⟨st, rd⟩ := rfl

@[simp] theorem State.resetRegisters_crc (s : State) : (s.resetRegisters).crc = 0xFFFFFFFF#32 := rfl
@[simp] theorem State.resetRegisters_cnt (s : State) : (s.resetRegisters).cnt = 0#32 := rfl
@[simp] theorem State.resetRegisters_ctype (s : State) : (s.resetRegisters).ctype = 0xFFFFFF00#32 := rfl
@[simp] theorem State.resetRegisters_err (s : State) : (s.resetRegisters).err = 0#3 := rfl
@[simp] theorem State.resetRegisters_inputs (s : State) : (s.resetRegisters).inputs = s.inputs := rfl
@[simp] theorem State.resetRegisters_output (s : State) : (s.resetRegisters).output = s.output := rfl

@[simp] theorem State.present_crc (s : State) (e : HostEvent) : (s.present e).crc = s.crc := rfl
@[simp] theorem State.present_cnt (s : State) (e : HostEvent) : (s.present e).cnt = s.cnt := rfl
@[simp] theorem State.present_ctype (s : State) (e : HostEvent) : (s.present e).ctype = s.ctype := rfl
@[simp] theorem State.present_err (s : State) (e : HostEvent) : (s.present e).err = s.err := rfl
@[simp] theorem State.present_inputs (s : State) (e : HostEvent) : (s.present e).inputs = e :: s.inputs := rfl
@[simp] theorem State.present_output (s : State) (e : HostEvent) : (s.present e).output = s.output := rfl

@[simp] theorem State.silent_crc (s : State) : s.silent.crc = s.crc := rfl
@[simp] theorem State.silent_cnt (s : State) : s.silent.cnt = s.cnt := rfl
@[simp] theorem State.silent_ctype (s : State) : s.silent.ctype = s.ctype := rfl
@[simp] theorem State.silent_err (s : State) : s.silent.err = s.err := rfl
@[simp] theorem State.silent_inputs (s : State) : s.silent.inputs = s.inputs := rfl
@[simp] theorem State.silent_output (s : State) : s.silent.output = none := rfl

/-! The block's registers as a whole: what writes a register changes it alone, what touches the port changes none. -/

@[simp] theorem State.setCrc_toRegisters (s : State) (v : Word) : (s.setCrc v).toRegisters = { s.toRegisters with crc := v } := rfl
@[simp] theorem State.setCnt_toRegisters (s : State) (v : Word) : (s.setCnt v).toRegisters = { s.toRegisters with cnt := v } := rfl
@[simp] theorem State.setCtype_toRegisters (s : State) (v : Word) : (s.setCtype v).toRegisters = { s.toRegisters with ctype := v } := rfl
@[simp] theorem State.setErr_toRegisters (s : State) (v : BitVec 3) : (s.setErr v).toRegisters = { s.toRegisters with err := v } := rfl
@[simp] theorem State.resetRegisters_toRegisters (s : State) :
    s.resetRegisters.toRegisters = { crc := 0xFFFFFFFF#32, cnt := 0#32, ctype := 0xFFFFFF00#32, err := 0#3 } := rfl

@[simp] theorem State.setInputs_toRegisters (s : State) (es : List HostEvent) : (s.setInputs es).toRegisters = s.toRegisters := rfl
@[simp] theorem State.deliver_toRegisters (s : State) (st : Status) (rd : Word) : (s.deliver st rd).toRegisters = s.toRegisters := rfl
@[simp] theorem State.silent_toRegisters (s : State) : (s.silent).toRegisters = s.toRegisters := rfl
@[simp] theorem State.present_toRegisters (s : State) (e : HostEvent) : (s.present e).toRegisters = s.toRegisters := rfl

end Sys2Proof.Machine
end

