-- ==== Sys2Proof/Laws/Ops.lean ====
section
/-! SUPPORT. What each shared operation does, once: responding, raising, taking an input, and the commands' common shape. -/

namespace Sys2Proof.Machine

theorem respond_eq (st : Status) (rd : Word) (s : State) : respond st rd s = .next (s.deliver st rd) := rfl

theorem raise_eq (st : Status) (rd : Word) (s : State) :
    raise st rd s = .next ((s.setErr (s.err ||| st.errMask)).deliver st rd) := rfl

/-- `err[code(S) - 1]` for each status (R133). -/
@[simp] theorem errMask_ok : Status.ok.errMask = 0b000#3 := rfl
@[simp] theorem errMask_illegalCmd : Status.illegalCmd.errMask = 0b001#3 := rfl
@[simp] theorem errMask_invalidType : Status.invalidType.errMask = 0b010#3 := rfl
@[simp] theorem errMask_crcMismatch : Status.crcMismatch.errMask = 0b100#3 := rfl

/-- If raising a status answers a next state, only `err` and the step's result differ. -/
theorem raise_frame {st : Status} {rd : Word} {s t : State} (h : raise st rd s = .next t) :
    t = { s with err := s.err ||| st.errMask, output := some ⟨st, rd⟩ } := by
  rw [raise_eq] at h
  cases h
  rfl

theorem takeInput_nil {s : State} (h : s.inputs = []) : s.takeInput = none := by
  simp [State.takeInput, h]

theorem takeInput_cons {s : State} {e : HostEvent} {es : List HostEvent} (h : s.inputs = e :: es) :
    s.takeInput = some (e, s.setInputs es) := by
  simp [State.takeInput, h]

/-- A step with something presented is the effect of the first event on the state it leaves. -/
theorem step_cons {s : State} {e : HostEvent} {es : List HostEvent} (h : s.inputs = e :: es) :
    step s = take e (s.setInputs es) := by
  simp [step, takeInput_cons h]

/-- Every command ends with a response of its own and consumes nothing more of what the host presents. -/
theorem exec_shape (i : Instr) (s : State) :
    ∃ t r, exec i s = .next t ∧ t.inputs = s.inputs ∧ t.output = some r := by
  cases i with
  | crcCheck w =>
    by_cases h : crcValue s.crc = w
    · exact ⟨s.deliver .ok (crcValue s.crc), _, by simp [exec, execCrcCheck, h, respond_eq], rfl, rfl⟩
    · exact ⟨(s.setErr (s.err ||| Status.crcMismatch.errMask)).deliver .crcMismatch (crcValue s.crc), _,
        by simp [exec, execCrcCheck, h, raise_eq], rfl, rfl⟩
  | typeLoadc t =>
    by_cases h : (flags t).getLsbD 5 = true
    · exact ⟨(s.setCtype t).deliver .ok (flags t), _, by simp only [exec, execTypeLoadc, if_pos h, respond_eq], rfl, rfl⟩
    · exact ⟨(s.setErr (s.err ||| Status.invalidType.errMask)).deliver .invalidType (flags t), _,
        by simp only [exec, execTypeLoadc, if_neg h, raise_eq], rfl, rfl⟩
  | nop | crcInit | crcByte b | crcWord w | crcRead | typeLoad t | typeRead | typeFlags | chunkStart t | cntRead
  | errRead | errClear | sreset => exact ⟨_, _, rfl, rfl, rfl⟩

/-- A command reads the registers alone: with any port beside them it gives the same registers and the same result, and
leaves what that port's host is going to present (R27, R142). -/
theorem exec_port (i : Instr) (s : State) (p : Port) :
    ∃ t, exec i s = .next t ∧ exec i { s with toPort := p } = .next { t with inputs := p.inputs } := by
  cases i with
  | crcCheck w =>
    by_cases h : crcValue s.crc = w
    · exact ⟨_, if_pos h, if_pos h⟩
    · exact ⟨_, if_neg h, if_neg h⟩
  | typeLoadc t =>
    by_cases h : (flags t).getLsbD 5 = true
    · exact ⟨_, if_pos h, if_pos h⟩
    · exact ⟨_, if_neg h, if_neg h⟩
  | nop | crcInit | crcByte b | crcWord w | crcRead | typeLoad t | typeRead | typeFlags | chunkStart t | cntRead
  | errRead | errClear | sreset => exact ⟨_, rfl, rfl⟩

end Sys2Proof.Machine
end

