-- ==== Sys2Proof/Laws/PerInstr.lean ====
section
/-! SUPPORT. Per-instruction statements. `OperandFits`: the operand word the encoder writes fits the command's shape, so
the bits a shape ignores are written as 0 (30_encoding.md R52, R57). -/

namespace Sys2Proof.Laws

/-- The encoded operand word is below 2 to the width of the command's shape; it is 0 for a command without an operand. -/
def OperandFits.Statement (i : Instr) : Prop := (encode i).wdata.toNat < 2 ^ i.mnemonic.shape.width

theorem OperandFits.nop : OperandFits.Statement .nop := by unfold OperandFits.Statement; decide
theorem OperandFits.crcInit : OperandFits.Statement .crcInit := by unfold OperandFits.Statement; decide
theorem OperandFits.crcByte (b : Byte) : OperandFits.Statement (.crcByte b) := by
  have h : (b.setWidth 32).toNat = b.toNat := by simp; omega
  have hb := b.isLt
  show (b.setWidth 32).toNat < 2 ^ 8
  omega
theorem OperandFits.crcWord (w : Word) : OperandFits.Statement (.crcWord w) := w.isLt
theorem OperandFits.crcRead : OperandFits.Statement .crcRead := by unfold OperandFits.Statement; decide
theorem OperandFits.crcCheck (w : Word) : OperandFits.Statement (.crcCheck w) := w.isLt
theorem OperandFits.typeLoad (t : Word) : OperandFits.Statement (.typeLoad t) := t.isLt
theorem OperandFits.typeLoadc (t : Word) : OperandFits.Statement (.typeLoadc t) := t.isLt
theorem OperandFits.typeRead : OperandFits.Statement .typeRead := by unfold OperandFits.Statement; decide
theorem OperandFits.typeFlags : OperandFits.Statement .typeFlags := by unfold OperandFits.Statement; decide
theorem OperandFits.chunkStart (t : Word) : OperandFits.Statement (.chunkStart t) := t.isLt
theorem OperandFits.cntRead : OperandFits.Statement .cntRead := by unfold OperandFits.Statement; decide
theorem OperandFits.errRead : OperandFits.Statement .errRead := by unfold OperandFits.Statement; decide
theorem OperandFits.errClear : OperandFits.Statement .errClear := by unfold OperandFits.Statement; decide
theorem OperandFits.sreset : OperandFits.Statement .sreset := by unfold OperandFits.Statement; decide

end Sys2Proof.Laws
end

