-- ==== Sys2Proof/Laws/Run.lean ====
section
/-! SUPPORT. A run of what the host presents, one event at a time. -/

namespace Sys2Proof.Machine

/-- Whatever is presented, its effect is a next state that leaves the rest of what the host presents. -/
theorem take_next (e : HostEvent) (s : State) : ∃ t, take e s = .next t ∧ t.inputs = s.inputs := by
  cases e with
  | reset => exact ⟨_, rfl, rfl⟩
  | command c =>
    cases h : decode c with
    | legal i =>
      obtain ⟨t, _, ht, hin, _⟩ := exec_shape i s
      exact ⟨t, by simpa [take, h] using ht, hin⟩
    | illegal r =>
      exact ⟨(s.setErr (s.err ||| Status.illegalCmd.errMask)).deliver .illegalCmd 0#32,
        by simp only [take, h, execIllegal, raise_eq], rfl⟩

/-- Whatever is presented, its effect reads the registers alone. -/
theorem take_port (e : HostEvent) (s : State) (p : Port) :
    ∃ t, take e s = .next t ∧ take e { s with toPort := p } = .next { t with inputs := p.inputs } := by
  cases e with
  | reset => exact ⟨_, rfl, rfl⟩
  | command c =>
    cases h : decode c with
    | legal i => simpa only [take, h] using exec_port i s p
    | illegal r =>
      simp only [take, h]
      exact ⟨_, rfl, rfl⟩

/-- A run of one step more, when the first step answers a next state. -/
theorem run_succ (M : Host.Core) {s t : M.State} (h : M.step s = .next t) (k : Nat) : M.run (k + 1) s = M.run k t := by
  simp [Host.Core.run, h]

/-- A run of nothing. -/
theorem runInputs_nil {s : State} (h : s.inputs = []) : runInputs s = .next s := by
  show Host.Core.run Sys2Proof.core s.inputs.length s = .next s
  rw [h]
  rfl

/-- A run is its first event, then the run of the rest from the state that event gives. -/
theorem runInputs_cons {s t : State} {e : HostEvent} {es : List HostEvent} (h : s.inputs = e :: es)
    (ht : take e (s.setInputs es) = .next t) : runInputs s = runInputs t := by
  obtain ⟨t', ht', hin⟩ := take_next e (s.setInputs es)
  have : t = t' := by simpa [ht] using ht'
  subst this
  have hs : Sys2Proof.core.step s = .next t := (step_cons h).trans ht
  have hlen : t.inputs.length = es.length := by rw [hin]; rfl
  show Host.Core.run Sys2Proof.core s.inputs.length s = Host.Core.run Sys2Proof.core t.inputs.length t
  rw [h, hlen, List.length_cons]
  exact run_succ Sys2Proof.core hs _

/-- A run of nothing shows no response. -/
theorem runResponses_nil {s : State} (h : s.inputs = []) : runResponses s = [] := by
  simp only [runResponses, h]
  rfl

/-- A run shows what its first event delivers, then what the run of the rest shows. -/
theorem runResponses_cons {s t : State} {e : HostEvent} {es : List HostEvent} (h : s.inputs = e :: es)
    (ht : take e (s.setInputs es) = .next t) : runResponses s = t.output.toList ++ runResponses t := by
  obtain ⟨t', ht', hin⟩ := take_next e (s.setInputs es)
  have : t = t' := by simpa [ht] using ht'
  subst this
  have hlen : t.inputs.length = es.length := by rw [hin]; rfl
  simp only [runResponses, h, hlen, List.length_cons, delivered, step_cons h, ht]

end Sys2Proof.Machine
end

