-- ==== Sys2Proof/Tests/Slice0.lean ====
section
/-! SUPPORT. Tests. Expected values are the spec's own: 95_test_vectors.md (the vector's name stands beside each test), the
rules' examples, or words written out from the table of 30_encoding.md R53. -/

namespace Sys2Proof.Tests
open Sys2Proof Sys2Proof.Machine

/-- One command from a given state: the registers after it, and the responses it delivers. -/
def after (s : State) (c : Command) : Option (Registers × List Response) :=
  match step { s with inputs := [.command c], output := none } with
  | .next t => some (t.toRegisters, t.output.toList)
  | .fault _ => none
  | .refused _ => none

/-- The state after reset with chosen registers. -/
def with4 (crc cnt ctype : Word) (err : BitVec 3) : State :=
  { State.reset with crc := crc, cnt := cnt, ctype := ctype, err := err }

/-! ## Decoding: words written out from R53 -/

theorem test_decode_nop : decode ⟨0b00000000#8, 0xDEADBEEF#32⟩ = .legal .nop := by decide
theorem test_decode_crcInit : decode ⟨0b00000001#8, 0#32⟩ = .legal .crcInit := by decide
theorem test_decode_crcByte : decode ⟨0b00000010#8, 0x000001FF#32⟩ = .legal (.crcByte 0xFF#8) := by decide
theorem test_decode_crcWord : decode ⟨0b00000011#8, 0x49454E44#32⟩ = .legal (.crcWord 0x49454E44#32) := by decide
theorem test_decode_crcRead : decode ⟨0b00000100#8, 0#32⟩ = .legal .crcRead := by decide
theorem test_decode_crcCheck : decode ⟨0b00000101#8, 0xAE426082#32⟩ = .legal (.crcCheck 0xAE426082#32) := by decide
theorem test_decode_typeLoad : decode ⟨0b00000110#8, 0x52757374#32⟩ = .legal (.typeLoad 0x52757374#32) := by decide
theorem test_decode_typeLoadc : decode ⟨0b00000111#8, 0x52755374#32⟩ = .legal (.typeLoadc 0x52755374#32) := by decide
theorem test_decode_typeRead : decode ⟨0b00001000#8, 0#32⟩ = .legal .typeRead := by decide
theorem test_decode_typeFlags : decode ⟨0b00001001#8, 0x12345678#32⟩ = .legal .typeFlags := by decide
theorem test_decode_chunkStart : decode ⟨0b00001010#8, 0x52755374#32⟩ = .legal (.chunkStart 0x52755374#32) := by decide
theorem test_decode_cntRead : decode ⟨0b00001011#8, 0#32⟩ = .legal .cntRead := by decide
theorem test_decode_errRead : decode ⟨0b00001100#8, 0#32⟩ = .legal .errRead := by decide
theorem test_decode_errClear : decode ⟨0b00001101#8, 0#32⟩ = .legal .errClear := by decide
theorem test_decode_sreset : decode ⟨0b00001110#8, 0#32⟩ = .legal .sreset := by decide
theorem test_decode_reserved : decode ⟨0b00001111#8, 0xFFFFFFFF#32⟩ = .illegal .reservedOp := by decide
theorem test_decode_z : decode ⟨0b00010011#8, 0x12345678#32⟩ = .illegal .zNotZero := by decide

/-! ## Commands: 95_test_vectors.md -/

/-- X2. -/
theorem test_nop : after State.reset ⟨0x00#8, 0xDEADBEEF#32⟩ =
    some (State.reset.toRegisters, [⟨.ok, 0#32⟩]) := by decide

/-- C1. -/
theorem test_crcInit : after (with4 0x12345678#32 7#32 0xFFFFFF00#32 0#3) ⟨0x01#8, 0#32⟩ =
    some (⟨0xFFFFFFFF#32, 0#32, 0xFFFFFF00#32, 0#3⟩, [⟨.ok, 0#32⟩]) := by decide

/-- C3: ignored bits set. -/
theorem test_crcByte_ignored_bits : after State.reset ⟨0x02#8, 0x000001FF#32⟩ =
    some (⟨0x00FFFFFF#32, 1#32, 0xFFFFFF00#32, 0#3⟩, [⟨.ok, 0#32⟩]) := by decide +kernel

/-- C5a: the counter wraps. -/
theorem test_crcByte_wraps : after (with4 0xFFFFFFFF#32 0xFFFFFFFF#32 0xFFFFFF00#32 0#3) ⟨0x02#8, 0#32⟩ =
    some (⟨0x2DFD1072#32, 0#32, 0xFFFFFF00#32, 0#3⟩, [⟨.ok, 0#32⟩]) := by decide +kernel

/-- C13: the bytes of a word enter most significant first. -/
theorem test_crcWord_order : after State.reset ⟨0x03#8, 0x52755374#32⟩ =
    some (⟨0x2B7BF6C3#32, 4#32, 0xFFFFFF00#32, 0#3⟩, [⟨.ok, 0#32⟩]) := by decide +kernel

/-- C5b: the counter wraps. -/
theorem test_crcWord_wraps : after (with4 0xFFFFFFFF#32 0xFFFFFFFE#32 0xFFFFFF00#32 0#3) ⟨0x03#8, 0#32⟩ =
    some (⟨0xDEBB20E3#32, 2#32, 0xFFFFFF00#32, 0#3⟩, [⟨.ok, 0#32⟩]) := by decide +kernel

/-- C15. -/
theorem test_crcRead : after (with4 0x51BD9F7D#32 0#32 0x49454E44#32 0#3) ⟨0x04#8, 0#32⟩ =
    some (⟨0x51BD9F7D#32, 0#32, 0x49454E44#32, 0#3⟩, [⟨.ok, 0xAE426082#32⟩]) := by decide

/-- C6a. -/
theorem test_crcCheck_passes : after State.reset ⟨0x05#8, 0#32⟩ =
    some (State.reset.toRegisters, [⟨.ok, 0#32⟩]) := by decide

/-- C6b. -/
theorem test_crcCheck_fails : after State.reset ⟨0x05#8, 0xFFFFFFFF#32⟩ =
    some (⟨0xFFFFFFFF#32, 0#32, 0xFFFFFF00#32, 0b100#3⟩, [⟨.crcMismatch, 0#32⟩]) := by decide

/-- T29. -/
theorem test_typeLoad : after State.reset ⟨0x06#8, 0x52757374#32⟩ =
    some (⟨0xFFFFFFFF#32, 0#32, 0x52757374#32, 0#3⟩, [⟨.ok, 0x00000F19#32⟩]) := by decide

/-- X10: the error bit is ORed in. -/
theorem test_typeLoadc_refuses : after (with4 0xFFFFFFFF#32 0#32 0xFFFFFF00#32 0b100#3) ⟨0x07#8, 0x52757374#32⟩ =
    some (⟨0xFFFFFFFF#32, 0#32, 0xFFFFFF00#32, 0b110#3⟩, [⟨.invalidType, 0x00000F19#32⟩]) := by decide

/-- T31. -/
theorem test_typeLoadc_loads : after State.reset ⟨0x07#8, 0x52755374#32⟩ =
    some (⟨0xFFFFFFFF#32, 0#32, 0x52755374#32, 0#3⟩, [⟨.ok, 0x00000F3D#32⟩]) := by decide

/-- T33. -/
theorem test_typeRead : after State.reset ⟨0x08#8, 0#32⟩ =
    some (State.reset.toRegisters, [⟨.ok, 0xFFFFFF00#32⟩]) := by decide

/-- T35: ignored operand bits. -/
theorem test_typeFlags : after (with4 0xFFFFFFFF#32 0#32 0x52755374#32 0#3) ⟨0x09#8, 0x12345678#32⟩ =
    some (⟨0xFFFFFFFF#32, 0#32, 0x52755374#32, 0#3⟩, [⟨.ok, 0x00000F3D#32⟩]) := by decide

/-- C12. -/
theorem test_chunkStart : after State.reset ⟨0x0A#8, 0x52755374#32⟩ =
    some (⟨0x2B7BF6C3#32, 0#32, 0x52755374#32, 0#3⟩, [⟨.ok, 0x00000F3D#32⟩]) := by decide +kernel

/-- C9: an invalid type is not refused. -/
theorem test_chunkStart_invalid : after State.reset ⟨0x0A#8, 0x52757374#32⟩ =
    some (⟨0xBEFFD261#32, 0#32, 0x52757374#32, 0#3⟩, [⟨.ok, 0x00000F19#32⟩]) := by decide +kernel

/-- P1's count, read from the register. -/
theorem test_cntRead : after (with4 0x542E27B1#32 42#32 0x52755374#32 0#3) ⟨0x0B#8, 0#32⟩ =
    some (⟨0x542E27B1#32, 42#32, 0x52755374#32, 0#3⟩, [⟨.ok, 0x0000002A#32⟩]) := by decide

/-- X7. -/
theorem test_errRead : after (with4 0xFFFFFFFF#32 0#32 0xFFFFFF00#32 0b011#3) ⟨0x0C#8, 0#32⟩ =
    some (⟨0xFFFFFFFF#32, 0#32, 0xFFFFFF00#32, 0b011#3⟩, [⟨.ok, 0x00000003#32⟩]) := by decide

/-- X8. -/
theorem test_errClear : after (with4 0xFFFFFFFF#32 0#32 0xFFFFFF00#32 0b101#3) ⟨0x0D#8, 0#32⟩ =
    some (State.reset.toRegisters, [⟨.ok, 0#32⟩]) := by decide

/-- X9. -/
theorem test_sreset : after (with4 0x12345678#32 9#32 0x52755374#32 0b111#3) ⟨0x0E#8, 0#32⟩ =
    some (State.reset.toRegisters, [⟨.ok, 0#32⟩]) := by decide

/-- X5. -/
theorem test_illegal_z : after State.reset ⟨0x13#8, 0x12345678#32⟩ =
    some (⟨0xFFFFFFFF#32, 0#32, 0xFFFFFF00#32, 0b001#3⟩, [⟨.illegalCmd, 0#32⟩]) := by decide

/-- X3. -/
theorem test_illegal_reserved : after State.reset ⟨0x0F#8, 0#32⟩ =
    some (⟨0xFFFFFFFF#32, 0#32, 0xFFFFFF00#32, 0b001#3⟩, [⟨.illegalCmd, 0#32⟩]) := by decide

/-! ## The extractor and the CRC -/

/-- T1 to T10, T16 to T18. -/
theorem test_flags_letters : [0x52755374#32, 0x52757374#32, 0x49454E44#32, 0x49484452#32, 0x49444154#32, 0x504C5445#32,
      0x74455874#32, 0x72755374#32, 0x52555354#32, 0x72757374#32, 0xFFFFFF00#32, 0x00000000#32, 0xFFFFFFFF#32].map flags =
    [0xF3D#32, 0xF19#32, 0xF37#32, 0xF37#32, 0xF37#32, 0xF37#32, 0xF3E#32, 0xF3C#32, 0xF37#32, 0xF18#32, 0#32, 7#32,
      8#32] := by decide

/-- T11 to T15, T19 to T28: the edges of the letter ranges. -/
theorem test_flags_edges : [0x52755331#32, 0x52754074#32, 0x52755B74#32, 0x52756074#32, 0x52757B74#32, 0x41414141#32,
      0x5A5A5A5A#32, 0x61616161#32, 0x7A7A7A7A#32, 0x40404040#32, 0x5B5B5B5B#32, 0x60606060#32, 0x7B7B7B7B#32,
      0xC1C1C1C1#32, 0x20202020#32].map flags =
    [0x70D#32, 0xB0D#32, 0xB0D#32, 0xB09#32, 0xB09#32, 0xF37#32, 0xF37#32, 0xF18#32, 0xF18#32, 7#32, 7#32, 8#32, 8#32,
      7#32, 8#32] := by decide

/-- C0a to C0h. -/
theorem test_crcByte_vectors : [crcByte 0xFFFFFFFF#32 0x00#8, crcByte 0xFFFFFFFF#32 0xFF#8, crcByte 0xFFFFFFFF#32 0x01#8,
      crcByte 0xFFFFFFFF#32 0x52#8, crcByte 0#32 0x00#8, crcByte 0#32 0x01#8, crcByte 0#32 0x80#8,
      crcByte 0x12345678#32 0xAB#8] =
    [0x2DFD1072#32, 0x00FFFFFF#32, 0x5AFA20E4#32, 0xA89820AA#32, 0#32, 0x77073096#32, 0xEDB88320#32, 0x1FC8B738#32] := by
  decide +kernel

/-- C0h in the table form (R93). -/
theorem test_crcByte_table : crcByteByTable 0x12345678#32 0xAB#8 = 0x1FC8B738#32 := by decide +kernel

/-- C0l, C0m, C0p, C0q, C0r, C0u, C0v. -/
theorem test_crc32_vectors : [crc32 [0x61#8], crc32 [0x61#8, 0x62#8, 0x63#8], chunkCrc 0x49484452#32 [],
      chunkCrc 0x49444154#32 [], chunkCrc 0x74455874#32 [], chunkCrc 0xFFFFFFFF#32 [], chunkCrc 0#32 []] =
    [0xE8B7BE43#32, 0x352441C2#32, 0xA8A1AE0A#32, 0x35AF061E#32, 0x9642C585#32, 0xFFFFFFFF#32, 0x2144DF1C#32] := by
  decide +kernel

/-- L1-3, the source's own CRC, over the words of P1. -/
theorem test_source_crc : chunkCrc 0x52755374#32
      ([0x54686973#32, 0x20697320#32, 0x77686572#32, 0x6520796F#32, 0x75722073#32, 0x65637265#32, 0x74206D65#32,
        0x73736167#32, 0x65207769#32, 0x6C6C2062#32].flatMap wordBytes ++ [0x65#8, 0x21#8]) = 0xABD1D84E#32 := by
  decide +kernel

/-- P2's IHDR chunk, good and corrupted, as the host reads the responses (R102). -/
theorem test_verdict :
    verdict [⟨.ok, 0xF37#32⟩, ⟨.ok, 0#32⟩, ⟨.ok, 0x1F15C489#32⟩] = some (.verified 0x1F15C489#32) ∧
    verdict [⟨.ok, 0xF37#32⟩, ⟨.ok, 0#32⟩, ⟨.crcMismatch, 0xF4227F8A#32⟩] = some .crcMismatch ∧
    verdict [⟨.ok, 0xF19#32⟩, ⟨.crcMismatch, 0xF4227F8A#32⟩] = some .invalidChunkType := by decide

/-- P1's serialisation begins with the length and the type (R101). -/
theorem test_serialise : serialise 0x0000002A#32 0x52755374#32 [0x54#8] 0xABD1D84E#32 =
    [0x00#8, 0x00#8, 0x00#8, 0x2A#8, 0x52#8, 0x75#8, 0x53#8, 0x74#8, 0x54#8, 0xAB#8, 0xD1#8, 0xD8#8, 0x4E#8] := by decide

/-! ## The assembler, and an ill-formed term for each check of WellFormed -/

theorem test_wf_missing_operand : (SourceLine.command ⟨.crcByte, none⟩).check = some .missingOperand := by decide
theorem test_wf_unexpected_operand :
    (SourceLine.command ⟨.nop, some (.number 0)⟩).check = some .unexpectedOperand := by decide
theorem test_wf_character_for_word :
    (SourceLine.command ⟨.crcWord, some (.character 'a')⟩).check = some .characterForWord := by decide
theorem test_wf_not_ascii :
    (SourceLine.command ⟨.typeLoad, some (.quoted 'R' 'u' 'é' 't')⟩).check = some .notAscii := by decide
theorem test_wf_byte_does_not_fit :
    (SourceLine.command ⟨.crcByte, some (.number 256)⟩).check = some .doesNotFit := by decide
theorem test_wf_word_does_not_fit :
    (SourceLine.command ⟨.crcCheck, some (.number 0x100000000)⟩).check = some .doesNotFit := by decide
theorem test_wf_feed : (SourceLine.feed (.values [0, 256])).check = some .doesNotFit ∧
    (SourceLine.feed (.string ['é'])).check = some .notAscii := by decide
theorem test_wf_verify :
    (SourceLine.verify (.quoted 'I' 'E' 'N' 'D') (.values []) (.number 0x100000000)).wf = false := by decide
theorem test_wf_accepts : (SourceLine.command ⟨.crcByte, some (.number 255)⟩).wf = true ∧
    (SourceLine.command ⟨.chunkStart, some (.quoted 'R' 'u' 'S' 't')⟩).wf = true := by decide

/-- R57: a type literal is big-endian. -/
theorem test_asm_type : assembleText "CHUNK_START 'RuSt'".toList = some [.chunkStart 0x52755374#32] := by decide

/-- R57: hexadecimal, decimal and character operands. -/
theorem test_asm_operands : assembleText "CRC_CHECK 0xAE426082".toList = some [.crcCheck 0xAE426082#32] ∧
    assembleText "CRC_BYTE 33".toList = some [.crcByte 0x21#8] ∧
    assembleText "CRC_BYTE '!'".toList = some [.crcByte 0x21#8] ∧ assembleText "CRC_BYTE 256".toList = none ∧
    assembleText "NOP 0".toList = none ∧ assembleText "nop".toList = none := by decide

/-- R58: the pseudo-instructions. -/
theorem test_asm_pseudo : assembleText "FEED 49, 50, 51, 52, 53".toList =
      some [.crcWord 0x31323334#32, .crcByte 0x35#8] ∧
    assembleText "CHUNK 'IHDR', \"12345\"".toList =
      some [.chunkStart 0x49484452#32, .crcWord 0x31323334#32, .crcByte 0x35#8] ∧
    assembleText "VERIFY 'IEND', \"\", 0xAE426082".toList =
      some [.chunkStart 0x49454E44#32, .crcCheck 0xAE426082#32] := by decide

/-- R57, R58: the four ASCII characters of a stored CRC may hold a comma, after either form of the bytes. -/
theorem test_asm_quoted_crc :
    assembleText "VERIFY 'IEND', 1, 'a,bc'".toList =
      some [.chunkStart 0x49454E44#32, .crcByte 0x01#8, .crcCheck 0x612C6263#32] ∧
    assembleText "VERIFY 'IEND', \"x\", 'a,bc'".toList =
      some [.chunkStart 0x49454E44#32, .crcByte 0x78#8, .crcCheck 0x612C6263#32] := by decide

/-- P1's last type line in the listing form of R57. -/
theorem test_listing : listingLine (.chunkStart 0x52755374#32) "CHUNK_START 'RuSt'".toList =
    "0A 52755374  CHUNK_START 'RuSt'".toList := by decide

/-! ## What a run shows (R141): a reset and an illegal command, then ERR_READ -/

theorem test_runResponses :
    runResponses { State.reset with inputs := [.reset, .command ⟨0x1F#8, 0#32⟩, .command ⟨0x0C#8, 0#32⟩] } =
      [⟨.illegalCmd, 0#32⟩, ⟨.ok, 1#32⟩] := by decide

/-! ## The host's two questions -/

theorem test_tableWord : decodeTableWord 8 0x0A = some (.chunkStart 0#32) ∧ decodeTableWord 8 0xFF = none := by decide

theorem test_withFetchWord : step (State.reset.withFetchWord 8 0x0A) = exec (.chunkStart 0#32) State.reset := by rfl

/-! ## Witnesses: a state and operands that meet the hypotheses of each statement that has some -/

theorem witness_DecodeFollowsTheOpcodeMap :
    (⟨0x10#8, 0#32⟩ : Command).cmd.extractLsb' 4 4 ≠ 0#4 ∧ (⟨0xF0#8, 0#32⟩ : Command).cmd.extractLsb' 4 4 ≠ 0#4 := by decide

theorem witness_EncodeOfDecode : decode ⟨0x02#8, 0x1FF#32⟩ = .legal (.crcByte 0xFF#8) ∧
    decode ⟨0x0A#8, 0xFFFFFFFF#32⟩ = .legal (.chunkStart 0xFFFFFFFF#32) ∧
    (0x0A#8 ∈ [0x03#8, 0x05#8, 0x06#8, 0x07#8, 0x0A#8]) ∧ decode ⟨0x0E#8, 0xFFFFFFFF#32⟩ = .legal .sreset ∧
    (0x0E#8 ∉ [0x02#8, 0x03#8, 0x05#8, 0x06#8, 0x07#8, 0x0A#8]) := by decide

theorem witness_StepRunsTheDecodedCommand : decode ⟨0x0E#8, 1#32⟩ = .legal .sreset ∧
    decode ⟨0x0F#8, 1#32⟩ = .illegal .reservedOp ∧ State.reset.inputs = [] := by decide

theorem witness_PlacedWordRunsNext : decodeTableWord 40 0xFFFFFFFF05 = some (.crcCheck 0xFFFFFFFF#32) := by decide

theorem witness_CrcCheckComparesAllBits : State.reset.crc ^^^ 0xFFFFFFFF#32 = 0#32 ∧
    State.reset.crc ^^^ 0xFFFFFFFF#32 ≠ 1#32 := by decide

theorem witness_CntReadAnswersThePayloadCount : (List.replicate 42 0x00#8).length = 42 ∧
    (List.replicate (2 ^ 32) 0x00#8).length = 2 ^ 32 ∧
    HostEvent.command ⟨0x0A#8, 0#32⟩ ∈ [HostEvent.reset, .command ⟨0x01#8, 0#32⟩, .command ⟨0x0A#8, 0#32⟩] :=
  ⟨List.length_replicate, List.length_replicate, by decide⟩

theorem witness_CntCountsPayloadBytes :
    (∀ i ∈ [Instr.crcByte 0xFF#8, .crcWord 0#32, .cntRead], i.mnemonic ∉ [.crcInit, .chunkStart, .sreset]) ∧
    Instr.nop.mnemonic ∉ [.crcInit, .chunkStart, .sreset, .crcByte, .crcWord] := by decide

theorem witness_CrcReadAnswersTheCrc :
    HostEvent.reset ∈ [HostEvent.reset, .command ⟨0x01#8, 0#32⟩] ∧
    HostEvent.command ⟨0x01#8, 0#32⟩ ∈ [HostEvent.reset, .command ⟨0x01#8, 0#32⟩] := by decide

theorem witness_TypeLoadcRefusesInvalidTypes :
    ((∀ i : Fin 4, isLetter (byteAt 0x415A5A7A#32 i) = true) ∧ (byteAt 0x415A5A7A#32 2).getLsbD 5 = false) ∧
    ¬ ((∀ i : Fin 4, isLetter (byteAt 0x52757374#32 i) = true) ∧ (byteAt 0x52757374#32 2).getLsbD 5 = false) ∧
    ¬ ((∀ i : Fin 4, isLetter (byteAt 0x4041415B#32 i) = true) ∧ (byteAt 0x4041415B#32 2).getLsbD 5 = false) := by decide

theorem witness_FlagsWordBitByBit : ((6 : Nat) = 6 ∨ (6 : Nat) = 7 ∨ 12 ≤ 6) ∧ ((12 : Nat) = 6 ∨ (12 : Nat) = 7 ∨ 12 ≤ 12) := by
  decide

theorem witness_LettersAreTheFiftyTwoCodes : ((0x5B#8 ≤ 0x5B#8 ∧ 0x5B#8 ≤ 0x60#8) ∨ 0x80#8 ≤ 0x5B#8) ∧
    ((0x5B#8 ≤ 0x80#8 ∧ 0x80#8 ≤ 0x60#8) ∨ 0x80#8 ≤ 0x80#8) := by decide

theorem witness_TypeReadBackIsExact :
    ∀ i ∈ [Instr.crcInit, .typeRead, .errClear], i.mnemonic ∉ [.typeLoad, .typeLoadc, .chunkStart, .sreset] := by decide

/-- C8: 'RuSt' and 'RuSu' differ in their last type byte. -/
theorem witness_SingleByteCorruptionIsDetected : 0x74#8 ≠ 0x75#8 ∧
    wordBytes 0x52755374#32 ++ [0x21#8] = [0x52#8, 0x75#8, 0x53#8] ++ 0x74#8 :: [0x21#8] ∧
    wordBytes 0x52755375#32 ++ [0x21#8] = [0x52#8, 0x75#8, 0x53#8] ++ 0x75#8 :: [0x21#8] := by decide

theorem witness_IllegalCommands : ((0x0F#8).extractLsb' 4 4 ≠ 0#4 ∨ 0x0F#8 = 0x0F#8) ∧
    ((0xFF#8).extractLsb' 4 4 ≠ 0#4 ∨ 0xFF#8 = 0x0F#8) := by decide

/-- One command for each status, with the cause StatusHasItsCause gives it. -/
theorem witness_StatusHasItsCause :
    (after State.reset ⟨0x10#8, 0#32⟩).map (fun p => p.2.map Response.status) = some [.illegalCmd] ∧
    (after State.reset ⟨0x07#8, 0#32⟩).map (fun p => p.2.map Response.status) = some [.invalidType] ∧
    (after State.reset ⟨0x05#8, 1#32⟩).map (fun p => p.2.map Response.status) = some [.crcMismatch] ∧
    (after State.reset ⟨0x0C#8, 1#32⟩).map (fun p => p.2.map Response.status) = some [.ok] ∧
    0x0C#8 ≠ 0x0D#8 ∧ 0x0C#8 ≠ 0x0E#8 := by decide

theorem witness_ErrorsDoNotAffectLaterCommands (w : Word) :
    .command ⟨0x0C#8, w⟩ ∉ [HostEvent.reset, .command ⟨0x05#8, 1#32⟩, .command ⟨0x0D#8, 0#32⟩] := by simp

/-- A state with an error bit set, its response in the history, and an idle step from it (log 3). -/
theorem witness_StepKeepsErrAccounted :
    (with4 0#32 0#32 0#32 0b001#3).accounted [⟨.illegalCmd, 0#32⟩] ∧
    step (with4 0#32 0#32 0#32 0b001#3) = .next (with4 0#32 0#32 0#32 0b001#3) :=
  ⟨⟨by simp [Response.lawful], by simp, by simp [with4], by simp [with4]⟩, rfl⟩

/-- The reset state with nothing delivered, and a step that takes an illegal command (X3). -/
theorem witness_StepKeepsErrAccounted_event : State.reset.accounted [] ∧
    step { State.reset with inputs := [.command ⟨0x0F#8, 0#32⟩] } =
      .next { State.reset with err := 0b001#3, output := some ⟨.illegalCmd, 0#32⟩ } :=
  ⟨⟨by simp, by decide, by decide, by decide⟩, rfl⟩

theorem witness_CommandsAccess : (accessOf .nop).wCrc = false ∧ (accessOf .nop).wCnt = false ∧
    (accessOf .crcInit).wCtype = false ∧ (accessOf .crcInit).wErr = false ∧ (accessOf .typeLoadc).rCrc = false ∧
    (accessOf .typeLoadc).rCnt = false ∧ (accessOf .crcCheck).rCtype = false ∧ (accessOf .crcCheck).rErr = false := by decide

theorem witness_StepDependsOnRegistersAndCommandAlone :
    State.reset.toRegisters = ({ State.reset with output := some ⟨.ok, 0#32⟩ } : State).toRegisters := by decide

theorem witness_ReadCommandsHaveNoSideEffect :
    Instr.errRead ∈ [Instr.nop, .crcRead, .typeRead, .typeFlags, .cntRead, .errRead] := by decide

theorem witness_SplitDoesNotMatter :
    (∀ i ∈ [Instr.crcWord 0x31323334#32] ++ [.crcByte 0x31#8, .crcByte 0x32#8, .crcByte 0x33#8, .crcByte 0x34#8],
      i.mnemonic ∈ [.crcByte, .crcWord]) ∧
    [Instr.crcWord 0x31323334#32].flatMap payloadOf =
      [Instr.crcByte 0x31#8, .crcByte 0x32#8, .crcByte 0x33#8, .crcByte 0x34#8].flatMap payloadOf := by decide

theorem witness_PseudoInstructionsExpand : (ByteText.values [0, 255]).check = none ∧
    (0 : Nat) < [0#8, 1#8, 2#8, 3#8, 4#8].length / 4 ∧ (0 : Nat) < [0#8, 1#8, 2#8, 3#8, 4#8].length % 4 ∧
    (SourceLine.chunk (.quoted 'I' 'E' 'N' 'D') (.string [])).check = none ∧
    (SourceLine.verify (.number 0xFFFFFFFF) (.string ['a']) (.number 0)).check = none := by decide

theorem witness_AssemblerAcceptsWhatFits :
    (⟨.crcByte, some (.number 255)⟩ : SourceCommand).check = none ∧ Mnemonic.nop.shape = .none ∧
    Mnemonic.crcByte.shape ≠ .none := by decide

theorem witness_ChunkSurvivesInterleavedReads :
    ∀ i ∈ [Instr.crcByte 0x21#8, .crcRead, .crcCheck 0#32, .typeFlags, .errClear], keepsChunk i = true := by decide

/-- The record of one fed byte describes the registers of C2, and an idle step from there (log 3). -/
theorem witness_BlockRefinesTheRecordMachine :
    (⟨[0x00#8], 1, 0xFFFFFF00#32, []⟩ : Record).describes (with4 0x2DFD1072#32 1#32 0xFFFFFF00#32 0#3) ∧
    step (with4 0x2DFD1072#32 1#32 0xFFFFFF00#32 0#3) = .next (with4 0x2DFD1072#32 1#32 0xFFFFFF00#32 0#3) :=
  ⟨⟨by decide +kernel, by decide, by decide, by decide, by decide, by decide⟩, rfl⟩

/-- The event clause of StepKeepsTheRecordDescription: the reset record describes the reset state, and a step there takes
a CRC_BYTE (C2). -/
theorem witness_StepKeepsTheRecordDescription_event :
    Record.reset.describes { State.reset with inputs := [.command ⟨0x02#8, 0#32⟩] } ∧
    step { State.reset with inputs := [.command ⟨0x02#8, 0#32⟩] } =
      .next { with4 0x2DFD1072#32 1#32 0xFFFFFF00#32 0#3 with output := some ⟨.ok, 0#32⟩ } :=
  ⟨⟨rfl, rfl, rfl, by decide, by decide, by decide⟩, by
    rw [step_cons rfl]
    exact congrArg (fun c => Host.Outcome.next { with4 c 1#32 0xFFFFFF00#32 0#3 with output := some ⟨.ok, 0#32⟩ })
      (show crcByte 0xFFFFFFFF#32 0x00#8 = 0x2DFD1072#32 by decide +kernel)⟩

/-- The empty byte list is fed as no command, and the chunks of one byte as one (FeedFeedsItsBytes and the chunk
statements have no hypotheses). -/
theorem test_feed_edges : feed [] = [] ∧ feed [0x21#8] = [.crcByte 0x21#8] ∧
    feed [1#8, 2#8, 3#8, 4#8] = [.crcWord 0x01020304#32] := by decide

end Sys2Proof.Tests
end

section
/-! SUPPORT. The byte order of words (20_memory.md R42, R43): packing four stream bytes and reading the bytes of a word
undo each other, so a packed word enters the CRC in stream order. -/

namespace Sys2Proof.Machine

/-! ## Bytes and words

Byte `i` of a packed word is reached by dropping the bytes packed after it, one append at a time. -/

@[simp] theorem byteAt_packBytes_zero (b0 b1 b2 b3 : Byte) : byteAt (packBytes b0 b1 b2 b3) 0 = b0 :=
  calc byteAt (packBytes b0 b1 b2 b3) 0
    _ = (b0 ++ b1 ++ b2).extractLsb' 16 8 := BitVec.extractLsb'_append_eq_of_le (by decide)
    _ = (b0 ++ b1).extractLsb' 8 8 := BitVec.extractLsb'_append_eq_of_le (by decide)
    _ = b0 := BitVec.extractLsb'_append_eq_left

@[simp] theorem byteAt_packBytes_one (b0 b1 b2 b3 : Byte) : byteAt (packBytes b0 b1 b2 b3) 1 = b1 :=
  calc byteAt (packBytes b0 b1 b2 b3) 1
    _ = (b0 ++ b1 ++ b2).extractLsb' 8 8 := BitVec.extractLsb'_append_eq_of_le (by decide)
    _ = (b0 ++ b1).extractLsb' 0 8 := BitVec.extractLsb'_append_eq_of_le (by decide)
    _ = b1 := BitVec.extractLsb'_append_eq_right

@[simp] theorem byteAt_packBytes_two (b0 b1 b2 b3 : Byte) : byteAt (packBytes b0 b1 b2 b3) 2 = b2 :=
  calc byteAt (packBytes b0 b1 b2 b3) 2
    _ = (b0 ++ b1 ++ b2).extractLsb' 0 8 := BitVec.extractLsb'_append_eq_of_le (by decide)
    _ = b2 := BitVec.extractLsb'_append_eq_right

@[simp] theorem byteAt_packBytes_three (b0 b1 b2 b3 : Byte) : byteAt (packBytes b0 b1 b2 b3) 3 = b3 :=
  BitVec.extractLsb'_append_eq_right

/-- Packed bytes come back in stream order. -/
@[simp] theorem wordBytes_packBytes (b0 b1 b2 b3 : Byte) : wordBytes (packBytes b0 b1 b2 b3) = [b0, b1, b2, b3] := by
  simp [wordBytes]

/-- A word is the packing of its bytes: adjacent fields join, from the most significant byte down. -/
theorem packBytes_extractLsb' (w : Word) :
    packBytes (w.extractLsb' 24 8) (w.extractLsb' 16 8) (w.extractLsb' 8 8) (w.extractLsb' 0 8) = w := by
  have top_half : w.extractLsb' 24 8 ++ w.extractLsb' 16 8 = w.extractLsb' 16 16 :=
    BitVec.extractLsb'_append_extractLsb'_eq_extractLsb' rfl
  have top_three : w.extractLsb' 16 16 ++ w.extractLsb' 8 8 = w.extractLsb' 8 24 :=
    BitVec.extractLsb'_append_extractLsb'_eq_extractLsb' rfl
  have whole : w.extractLsb' 8 24 ++ w.extractLsb' 0 8 = w := BitVec.extractLsb'_append_extractLsb'
  rw [packBytes, top_half, top_three, whole]

/-! ## The commands that take a packed word -/

/-- A packed word is fed as its four bytes in stream order. -/
theorem crcWord_packBytes (c : Word) (b0 b1 b2 b3 : Byte) :
    crcWord c (packBytes b0 b1 b2 b3) = crcSeq c [b0, b1, b2, b3] := by
  rw [crcWord_eq_crcSeq, wordBytes_packBytes]

/-- CRC_WORD (R96). -/
theorem exec_crcWord (w : Word) (s : State) : exec (.crcWord w) s =
    .next (((s.setCrc (crcWord s.crc w)).setCnt (s.cnt + 4#32)).deliver .ok 0#32) := rfl

/-- CHUNK_START (R100). -/
theorem exec_chunkStart (t : Word) (s : State) : exec (.chunkStart t) s =
    .next ((((s.setCrc (crcWord crcInit t)).setCnt 0#32).setCtype t).deliver .ok (flags t)) := rfl

/-- Settles O30: packing and taking apart are inverse, and both commands feed a word by `crcWord`, so a packed word is
fed as its bytes in stream order. -/
theorem packedWordsEnterInStreamOrder : Obligations.PackedWordsEnterInStreamOrder := by
  refine ⟨fun t => ⟨rfl, rfl, rfl, rfl⟩, wordBytes_packBytes, packBytes_extractLsb', fun s b0 b1 b2 b3 => ?_⟩
  exact ⟨_, _, exec_crcWord _ s, crcWord_packBytes s.crc b0 b1 b2 b3,
    exec_chunkStart _ s, crcWord_packBytes crcInit b0 b1 b2 b3⟩

end Sys2Proof.Machine
end

section
/-! SUPPORT. The decoder read backwards (30_encoding.md R53, R55, R56): which `cmd` each answer comes from, and the
illegal commands. -/

namespace Sys2Proof.Machine

/-! ## The fields of `cmd` -/

/-- `cmd` is its two fields, `z` above `op` (R51). -/
theorem z_append_op (c : Command) : c.z ++ c.op = c.cmd := BitVec.extractLsb'_append_extractLsb'

/-- The opcode map names the mnemonic whose `cmd` has that `op` and a zero `z` (R53). -/
theorem cmd_of_ofOp {op : BitVec 4} {m : Mnemonic} (h : Mnemonic.ofOp op = some m) : 0#4 ++ op = m.cmd := by
  have table : ∀ op : BitVec 4, ∀ m ∈ Mnemonic.ofOp op, 0#4 ++ op = m.cmd := by decide
  exact table op m h

/-- `0xF` is the one reserved value of `op` (R53). -/
theorem ofOp_eq_none_iff : ∀ op : BitVec 4, Mnemonic.ofOp op = none ↔ op = 0xF#4 := by decide

/-! ## What each answer of the decoder says of the command -/

/-- A command is illegal exactly when `z` is not 0 or `cmd` is 0x0F (R55). -/
theorem decode_illegal_iff (c : Command) : (∃ r, decode c = .illegal r) ↔ c.z ≠ 0#4 ∨ c.cmd = 0x0F#8 := by
  by_cases hz : c.z = 0#4
  · have reserved : c.cmd = 0x0F#8 ↔ c.op = 0xF#4 := by
      rw [← z_append_op, hz]
      exact (by decide : ∀ op : BitVec 4, 0#4 ++ op = 0x0F#8 ↔ op = 0xF#4) c.op
    cases hm : Mnemonic.ofOp c.op with
    | none | some m => simp [decode, hz, hm, reserved, ← ofOp_eq_none_iff]
  · simp [decode, hz]

/-- A legal command has its mnemonic's `cmd`, and decodes to it with the operand taken from `wdata` (R52, R53). -/
theorem exists_mnemonic_of_decode_legal {c : Command} {i : Instr} (h : decode c = .legal i) :
    ∃ m : Mnemonic, c.cmd = m.cmd ∧ i = m.withOperand c.wdata := by
  by_cases hz : c.z = 0#4
  · cases hm : Mnemonic.ofOp c.op with
    | none => simp [decode, hz, hm] at h
    | some m =>
      have hcmd : c.cmd = m.cmd := by rw [← z_append_op, hz, cmd_of_ofOp hm]
      exact ⟨m, hcmd, by simpa [decode, hz, hm] using h.symm⟩
  · simp [decode, hz] at h

/-- No row of the opcode map has the `cmd` of an illegal command (R55). -/
theorem cmd_ne_of_decode_illegal {c : Command} {r : IllegalReason} (h : decode c = .illegal r) (m : Mnemonic) :
    c.cmd ≠ m.cmd := by
  intro hcmd
  have legal : decode c = .legal (m.withOperand c.wdata) := by
    rw [← decode_cmd m c.wdata, ← hcmd]
  simp [h] at legal

/-- The decoder gives no instruction exactly where it answers "illegal". -/
theorem toOption_isNone_iff (d : Decoded) : d.toOption.isNone = true ↔ ∃ r, d = .illegal r := by
  cases d <;> simp [Decoded.toOption]

/-! ## Stepping on a command -/

/-- A step on a legal command runs it once the command is consumed. -/
theorem step_legal {c : Command} {i : Instr} (s : State) (es : List HostEvent) (h : decode c = .legal i) :
    step { s with inputs := .command c :: es } = exec i (s.setInputs es) := by
  rw [step_cons rfl]
  simp only [take, h]
  rfl

/-- A step on an illegal command raises ILLEGAL_CMD with 0, whichever way it is illegal (R134). -/
theorem step_illegal {c : Command} (s : State) (es : List HostEvent) (h : ∃ r, decode c = .illegal r) :
    step { s with inputs := .command c :: es } =
      .next (((s.setInputs es).setErr (s.err ||| Status.illegalCmd.errMask)).deliver .illegalCmd 0#32) := by
  obtain ⟨r, hr⟩ := h
  rw [step_cons rfl]
  simp only [take, hr, execIllegal, raise_eq]
  rfl

/-- A step on `rst` gives every register its reset value and delivers nothing (R150). -/
theorem step_reset (s : State) (es : List HostEvent) :
    step { s with inputs := .reset :: es } = .next (s.setInputs es).resetRegisters.silent := rfl

/-- Settles O34: the illegal set is `decode_illegal_iff`, which also counts it, and the effect is `step_illegal`. -/
theorem illegalEncodings : Obligations.IllegalEncodings := by
  refine ⟨decode_illegal_iff, fun w => ?count, fun s c es h => ?effect⟩
  case count =>
    have illegal (n : Nat) : (decode ⟨BitVec.ofNat 8 n, w⟩).toOption.isNone = true ↔
        decide ((BitVec.ofNat 8 n).extractLsb' 4 4 ≠ 0#4 ∨ BitVec.ofNat 8 n = 0x0F#8) = true := by
      rw [toOption_isNone_iff, decode_illegal_iff, decide_eq_true_iff]
    rw [List.countP_congr fun n _ => illegal n]
    decide +kernel
  case effect =>
    refine ⟨_, step_illegal s es ((decode_illegal_iff c).mpr h), rfl, rfl, rfl, rfl, ?_, ?_⟩ <;> simp

end Sys2Proof.Machine
end

section
/-! SUPPORT. The answer of every command (30_encoding.md R53, R54). -/

namespace Sys2Proof.Machine

/-- The result a command's row of the opcode map names (R53), read from the state before the command. -/
def rdataOf (i : Instr) (s : State) : Word :=
  match i with
  | .crcRead | .crcCheck _ => crcValue s.crc
  | .typeLoad t | .typeLoadc t | .chunkStart t => flags t
  | .typeRead => s.ctype
  | .typeFlags => flags s.ctype
  | .cntRead => s.cnt
  | .errRead => s.err.setWidth 32
  | .nop | .crcInit | .crcByte _ | .crcWord _ | .errClear | .sreset => 0#32

/-- Every command ends by delivering the result its row names, with status OK or not. -/
theorem exec_delivers (i : Instr) (s : State) :
    ∃ (u : State) (st : Status), exec i s = .next (u.deliver st (rdataOf i s)) ∧ u.inputs = s.inputs := by
  cases i with
  | crcCheck w =>
    by_cases h : crcValue s.crc = w
    · exact ⟨_, _, if_pos h, rfl⟩
    · exact ⟨_, _, if_neg h, rfl⟩
  | typeLoadc t =>
    by_cases h : (flags t).getLsbD 5 = true
    · exact ⟨_, _, if_pos h, rfl⟩
    · exact ⟨_, _, if_neg h, rfl⟩
  | nop | crcInit | crcByte b | crcWord w | crcRead | typeLoad t | typeRead | typeFlags | chunkStart t | cntRead
  | errRead | errClear | sreset => exact ⟨_, _, rfl, rfl⟩

/-- Settles O42: a legal command delivers its row's result (`exec_delivers`) and its `cmd` is that row's, an illegal one
delivers 0, and `rst` delivers nothing. -/
theorem everyCommandAnswersOnce : Obligations.EveryCommandAnswersOnce := by
  refine ⟨fun s c es => ?command, fun s es => ⟨_, step_reset s es, rfl, rfl⟩⟩
  cases hd : decode c with
  | legal i =>
    obtain ⟨m, hcmd, rfl⟩ := exists_mnemonic_of_decode_legal hd
    obtain ⟨u, st, hexec, hin⟩ := exec_delivers (m.withOperand c.wdata) (s.setInputs es)
    refine ⟨_, _, (step_legal s es hd).trans hexec, hin, rfl, ?_⟩
    rw [hcmd]
    cases m <;> rfl
  | illegal r =>
    refine ⟨_, _, step_illegal s es ⟨r, hd⟩, rfl, rfl, ?_⟩
    have noRow : c.cmd ∉ mnemonics.map Mnemonic.cmd := by simpa [eq_comm] using fun m _ => cmd_ne_of_decode_illegal hd m
    simp only [mnemonics, List.map_cons, Mnemonic.cmd, List.mem_cons, not_or] at noRow
    simp [noRow]

end Sys2Proof.Machine
end

section
/-! SUPPORT. The pseudo-instructions (30_encoding.md R58): the place of each byte in the expansion of FEED. -/

namespace Sys2Proof.Machine

/-- Fewer than four bytes are fed one by one. -/
theorem feed_of_length_lt {bs : List Byte} (h : bs.length < 4) : feed bs = bs.map .crcByte := by
  match bs, h with
  | [], _ | [_], _ | [_, _], _ | [_, _, _], _ => rfl

/-- Bytes taken four at a time: the induction that FEED's expansion follows. -/
theorem feed_induction {P : List Byte → Prop} (short : ∀ bs : List Byte, bs.length < 4 → P bs)
    (four : ∀ b0 b1 b2 b3 bs, P bs → P (b0 :: b1 :: b2 :: b3 :: bs)) : ∀ bs, P bs
  | [] | [_] | [_, _] | [_, _, _] => short _ (by simp)
  | b0 :: b1 :: b2 :: b3 :: bs => four b0 b1 b2 b3 bs (feed_induction short four bs)

/-- One command for each four bytes, and one for each byte left over. -/
theorem feed_length (bs : List Byte) : (feed bs).length = bs.length / 4 + bs.length % 4 := by
  induction bs using feed_induction with
  | short bs h => rw [feed_of_length_lt h, List.length_map]; omega
  | four b0 b1 b2 b3 bs ih => simp only [feed, List.length_cons, ih]; omega

/-- Command `k` of the expansion packs the `k`th four bytes. -/
theorem feed_word {bs : List Byte} {k : Nat} {c0 c1 c2 c3 : Byte} (h0 : bs[4 * k]? = some c0)
    (h1 : bs[4 * k + 1]? = some c1) (h2 : bs[4 * k + 2]? = some c2) (h3 : bs[4 * k + 3]? = some c3) :
    (feed bs)[k]? = some (.crcWord (packBytes c0 c1 c2 c3)) := by
  induction bs using feed_induction generalizing k with
  | short bs h =>
    obtain ⟨hlt, -⟩ := List.getElem?_eq_some_iff.mp h3
    omega
  | four b0 b1 b2 b3 bs ih =>
    cases k with
    | zero => simp_all [feed]
    | succ k => exact ih h0 h1 h2 h3

/-- After the words, the bytes left over are fed one by one. -/
theorem feed_tail (bs : List Byte) (j : Nat) :
    (feed bs)[bs.length / 4 + j]? = bs[4 * (bs.length / 4) + j]?.map .crcByte := by
  induction bs using feed_induction with
  | short bs h => simp [feed_of_length_lt h, Nat.div_eq_of_lt h]
  | four b0 b1 b2 b3 bs ih =>
    have hlen : (b0 :: b1 :: b2 :: b3 :: bs).length / 4 = bs.length / 4 + 1 := by simp only [List.length_cons]; omega
    have hword : bs.length / 4 + 1 + j = bs.length / 4 + j + 1 := by omega
    have hbyte : 4 * (bs.length / 4 + 1) + j = 4 * (bs.length / 4) + j + 4 := by omega
    rw [hlen, hword, hbyte]
    exact ih

/-- Settles O50: `feed_length`, `feed_word` and `feed_tail` place every command of FEED, and the assembler expands a line
that it does not refuse. -/
theorem pseudoInstructionsExpand : Obligations.PseudoInstructionsExpand := by
  refine ⟨fun bs => ⟨feed_length bs, fun k hk => ?word, fun j hj => ?tail⟩, fun bs h => ?feed, fun t bs h => ?chunk,
    fun t bs crc h => ?verify⟩
  case word =>
    have byte (n : Nat) (hn : n < 4) := List.getElem?_eq_getElem (l := bs) (i := 4 * k + n) (by omega)
    have b0 := byte 0 (by decide)
    have b1 := byte 1 (by decide)
    have b2 := byte 2 (by decide)
    have b3 := byte 3 (by decide)
    exact ⟨_, _, _, _, b0, b1, b2, b3, feed_word b0 b1 b2 b3⟩
  case tail =>
    have hb := List.getElem?_eq_getElem (l := bs) (i := 4 * (bs.length / 4) + j) (by omega)
    exact ⟨_, hb, by rw [feed_tail, hb, Option.map_some]⟩
  case feed => simp only [assemble, SourceLine.check, h]
  case chunk => simp only [assemble, h, chunk]
  case verify => simp only [assemble, h, verify, chunk]

end Sys2Proof.Machine
end

section
/-! SUPPORT. The flags word bit by bit (40_chunk_type.md R71 to R77) and the validity of a type word (R75). -/

namespace Sys2Proof.Machine

/-! ## The bits of the flags word -/

/-- The table of R76, from bit 0 up; the bits above the table are 0. -/
def flagsTable (t : Word) : List Bool :=
  [critical t, isPublic t, reservedOk t, safeToCopy t, allLetters t, validType t, false, false,
    isLetter (byteAt t 0), isLetter (byteAt t 1), isLetter (byteAt t 2), isLetter (byteAt t 3)]

/-- The packing of R76's pseudocode puts every bit where its table says. -/
theorem flags_getLsbD (t : Word) (k : Nat) : (flags t).getLsbD k = (flagsTable t).getD k false := by
  by_cases hk : k < 12
  · simp only [flags, flagBits, BitVec.getLsbD_setWidth, BitVec.getLsbD_append]
    interval_cases k <;> simp [flagsTable]
  · have above : 12 ≤ k := Nat.le_of_not_lt hk
    rw [List.getD_eq_default _ _ above, flags, BitVec.getLsbD_setWidth, BitVec.getLsbD_of_ge _ _ above, Bool.and_false]

/-- Bit 5 of a byte as a bit of the word (R10). -/
theorem bit5_byteAt (t : Word) (i : Fin 4) : bit5 (byteAt t i) = t.getLsbD (8 * (3 - i.val) + 5) := by
  simp [bit5, byteAt]

theorem critical_eq (t : Word) : critical t = !t.getLsbD 29 := congrArg not (bit5_byteAt t 0)

theorem isPublic_eq (t : Word) : isPublic t = !t.getLsbD 21 := congrArg not (bit5_byteAt t 1)

theorem reservedOk_eq (t : Word) : reservedOk t = !t.getLsbD 13 := congrArg not (bit5_byteAt t 2)

theorem safeToCopy_eq (t : Word) : safeToCopy t = t.getLsbD 5 := bit5_byteAt t 3

/-- Bits 7:6 and 31:12 are 0 (R76). -/
theorem flags_getLsbD_reserved (t : Word) {k : Nat} (hk : k = 6 ∨ k = 7 ∨ 12 ≤ k) : (flags t).getLsbD k = false := by
  rw [flags_getLsbD]
  obtain rfl | rfl | above := hk
  · rfl
  · rfl
  · exact List.getD_eq_default _ _ above

/-- Settles O27: `flags_getLsbD` reads off each bit, and the properties are the bit-5 tests of the four bytes. -/
theorem flagsWordBitByBit : Obligations.FlagsWordBitByBit := by
  intro t
  have bit (k : Nat) := flags_getLsbD t k
  have valid : (flags t).getLsbD 5 = ((flags t).getLsbD 4 && !t.getLsbD 13) := by
    rw [flags_valid_bit, bit 4, ← reservedOk_eq]
    rfl
  exact ⟨(bit 0).trans (critical_eq t), (bit 1).trans (isPublic_eq t), (bit 2).trans (reservedOk_eq t),
    (bit 3).trans (safeToCopy_eq t), bit 4, valid, bit 8, bit 9, bit 10, bit 11, fun _ => flags_getLsbD_reserved t⟩

/-! ## Validity -/

/-- A type is valid when its four bytes are letters and the third has bit 5 clear (R75). -/
theorem validType_iff (t : Word) :
    validType t = true ↔ (∀ i : Fin 4, isLetter (byteAt t i) = true) ∧ (byteAt t 2).getLsbD 5 = false := by
  simp [validType, allLetters, reservedOk, bit5, Fin.forall_fin_succ, and_assoc]

/-- 'Rust': four letters, the third lower-case (R78). -/
theorem flags_rust : flags 0x52757374#32 = 0x00000F19#32 := by decide

/-- 'RuSt' (R81). -/
theorem flags_ruSt : flags 0x52755374#32 = 0x00000F3D#32 := by decide

/-- The sentinel of R24. -/
theorem flags_sentinel : flags 0xFFFFFF00#32 = 0x00000000#32 := by decide

end Sys2Proof.Machine
end

section
/-! SUPPORT. Running commands the host presents, one at a time, by their effect. -/

namespace Sys2Proof.Machine

/-- The decoder reads a command back from what the host issues for it (R56, R57). -/
theorem decode_encode (i : Instr) : decode (encode i) = .legal i := by
  have reads_back : i.mnemonic.withOperand i.wdata = i := by
    cases i with
    | crcByte b =>
      have low_byte : (b.setWidth 32).extractLsb' 0 8 = b := by
        rw [← BitVec.setWidth_eq_extractLsb' (by decide), BitVec.setWidth_setWidth_of_le _ (by decide), BitVec.setWidth_eq]
      exact congrArg Instr.crcByte low_byte
    | nop | crcInit | crcWord w | crcRead | crcCheck w | typeLoad t | typeLoadc t | typeRead | typeFlags | chunkStart t
    | cntRead | errRead | errClear | sreset => rfl
  rw [encode, decode_cmd, reads_back]

/-- A run of commands is the effect of the first, then the run of the rest. -/
theorem runInputs_presented_cons {s t : State} {i : Instr} {is : List Instr} (h : s.inputs = presented (i :: is))
    (ht : exec i (s.setInputs (presented is)) = .next t) : runInputs s = runInputs t :=
  runInputs_cons (e := .command (encode i)) (es := presented is) h (by simpa only [take, decode_encode] using ht)

/-- A run of one command is its effect. -/
theorem runInputs_presented_singleton {s : State} {i : Instr} (h : s.inputs = presented [i]) :
    runInputs s = exec i (s.setInputs []) := by
  obtain ⟨t, -, ht, hin, -⟩ := exec_shape i (s.setInputs [])
  rw [ht, runInputs_presented_cons h ht, runInputs_nil hin]

end Sys2Proof.Machine
end

section
/-! SUPPORT. The type commands (40_chunk_type.md R78 to R81). -/

namespace Sys2Proof.Machine

/-- TYPE_LOAD (R78). -/
theorem exec_typeLoad (t : Word) (s : State) : exec (.typeLoad t) s = .next ((s.setCtype t).deliver .ok (flags t)) := rfl

/-- TYPE_LOADC of a valid type (R79). -/
theorem exec_typeLoadc_of_valid {t : Word} (s : State) (h : validType t = true) :
    exec (.typeLoadc t) s = .next ((s.setCtype t).deliver .ok (flags t)) :=
  if_pos ((flags_valid_bit t).trans h)

/-- TYPE_LOADC of any other type raises INVALID_TYPE, with the flags as result (R79). -/
theorem exec_typeLoadc_of_invalid {t : Word} (s : State) (h : ¬ validType t = true) :
    exec (.typeLoadc t) s = raise .invalidType (flags t) s :=
  if_neg (by rwa [flags_valid_bit])

/-- TYPE_READ (R80). -/
theorem exec_typeRead (s : State) : exec .typeRead s = .next (s.deliver .ok s.ctype) := rfl

/-- TYPE_FLAGS (R81). -/
theorem exec_typeFlags (s : State) : exec .typeFlags s = .next (s.deliver .ok (flags s.ctype)) := rfl

/-- A command after TYPE_LOAD finds the loaded word in the type register. -/
theorem runInputs_typeLoad_then (s : State) (t : Word) (i : Instr) :
    runInputs { s with inputs := presented [.typeLoad t, i] } =
      exec i (((s.setInputs []).setCtype t).deliver .ok (flags t)) :=
  (runInputs_presented_cons rfl (exec_typeLoad t _)).trans (runInputs_presented_singleton rfl)

/-- Settles O23: TYPE_LOAD checks nothing, so `exec_typeLoad` is its effect for every word. -/
theorem typeLoadLoadsAnyWord : Obligations.TypeLoadLoadsAnyWord := by
  refine ⟨decode_cmd .typeLoad, exec_typeLoad, ?vector⟩
  rw [← flags_rust]
  exact (step_legal State.reset [] (decode_cmd .typeLoad _)).trans (exec_typeLoad _ _)

/-- Settles O24: the test of TYPE_LOADC is `validType`, which is the condition of the statement by `validType_iff`. -/
theorem typeLoadcRefusesInvalidTypes : Obligations.TypeLoadcRefusesInvalidTypes := by
  refine ⟨decode_cmd .typeLoadc, fun t s letters reserved => ?loads, fun t s invalid => ?refuses, ?vector⟩
  case loads => exact exec_typeLoadc_of_valid s ((validType_iff t).mpr ⟨letters, reserved⟩)
  case refuses =>
    rw [exec_typeLoadc_of_invalid s (mt (validType_iff t).mp invalid), raise_eq]
    rfl
  case vector =>
    rw [← flags_rust]
    exact (step_legal State.reset [] (decode_cmd .typeLoadc _)).trans (exec_typeLoadc_of_invalid _ (by decide))

/-- Settles O25: after TYPE_LOAD, TYPE_READ answers the word `runInputs_typeLoad_then` puts in `ctype`. -/
theorem typeReadAnswersTheTypeWord : Obligations.TypeReadAnswersTheTypeWord := by
  refine ⟨decode_cmd .typeRead, exec_typeRead, exec_typeRead State.reset, fun s => ?_⟩
  exact ⟨_, (runInputs_typeLoad_then s _ _).trans (exec_typeRead _), rfl⟩

/-- Settles O26: as O25, with the flags of the sentinel and of 'RuSt' evaluated. -/
theorem typeFlagsAnswersTheProperties : Obligations.TypeFlagsAnswersTheProperties := by
  refine ⟨decode_cmd .typeFlags, exec_typeFlags, ?sentinel, fun s => ?vector⟩
  case sentinel =>
    rw [← flags_sentinel]
    exact exec_typeFlags State.reset
  case vector =>
    rw [← flags_ruSt]
    exact ⟨_, (runInputs_typeLoad_then s _ _).trans (exec_typeFlags _), rfl⟩

end Sys2Proof.Machine
end

section
/-! SUPPORT. The CRC step loses nothing (41_crc.md R90, R103): it is injective in the remainder and in the byte, so a
changed byte still shows after any bytes that follow it. -/

namespace Sys2Proof.Machine

/-- A turn as one sum: the shift, and the polynomial where the consumed bit is 1 (R90). -/
theorem crcShift_eq_xor (c : Word) : crcShift c = (c >>> 1) ^^^ (if c.getLsbD 0 then crcPoly else 0#32) := by
  rw [crcShift]
  split
  · rfl
  · exact BitVec.xor_zero.symm

/-- The top bit of the polynomial is set and a shift clears the top bit, so a turn moves the bit it consumes to the
top. -/
theorem crcShift_getLsbD_top (c : Word) : (crcShift c).getLsbD 31 = c.getLsbD 0 := by
  rw [crcShift_eq_xor, BitVec.getLsbD_xor, BitVec.getLsbD_ushiftRight, BitVec.getLsbD_of_ge _ _ (by decide),
    Bool.false_xor]
  cases c.getLsbD 0 <;> rfl

/-- A turn can be undone: its top bit tells whether the polynomial was added. -/
theorem crcShift_injective : Function.Injective crcShift := by
  intro c d h
  have consumed : c.getLsbD 0 = d.getLsbD 0 := by rw [← crcShift_getLsbD_top, h, crcShift_getLsbD_top]
  have shifted : c >>> 1 = d >>> 1 := by
    rw [crcShift_eq_xor, crcShift_eq_xor, consumed] at h
    exact (BitVec.xor_left_inj _).mp h
  refine BitVec.eq_of_getLsbD_eq fun i _ => ?_
  cases i with
  | zero => exact consumed
  | succ i => rw [Nat.add_comm, ← BitVec.getLsbD_ushiftRight, shifted, BitVec.getLsbD_ushiftRight]

theorem crcShifts_injective (n : Nat) : Function.Injective (crcShifts n) := by
  induction n with
  | zero => exact fun _ _ h => h
  | succ n ih => exact ih.comp crcShift_injective

/-- Different remainders stay different over a byte. -/
theorem crcByte_injective_remainder (b : Byte) : Function.Injective (crcByte · b) :=
  fun _ _ h => (BitVec.xor_left_inj _).mp (crcShifts_injective 8 h)

/-- Different bytes give different remainders. -/
theorem crcByte_injective_byte (c : Word) : Function.Injective (crcByte c) := by
  have widen : Function.Injective (BitVec.setWidth 32 : Byte → Word) :=
    Function.LeftInverse.injective (g := BitVec.setWidth 8) fun b => by simp
  exact fun _ _ h => widen ((BitVec.xor_right_inj _).mp (crcShifts_injective 8 h))

/-- Different remainders stay different over any bytes. -/
theorem crcSeq_injective_remainder (bs : List Byte) : Function.Injective (crcSeq · bs) := by
  induction bs with
  | nil => exact fun _ _ h => h
  | cons b bs ih => exact ih.comp (crcByte_injective_remainder b)

theorem crcValue_injective : Function.Injective crcValue := fun _ _ h => (BitVec.xor_left_inj _).mp h

/-- Sequences that differ in exactly one byte have different CRC values (R103). -/
theorem crc32_ne_of_byte_ne (l r : List Byte) {a b : Byte} (h : a ≠ b) :
    crc32 (l ++ a :: r) ≠ crc32 (l ++ b :: r) := by
  intro hcrc
  have remainders : crcSeq crcInit (l ++ a :: r) = crcSeq crcInit (l ++ b :: r) := crcValue_injective hcrc
  rw [crcSeq_append, crcSeq_append, crcSeq_cons, crcSeq_cons] at remainders
  exact h (crcByte_injective_byte _ (crcSeq_injective_remainder r remainders))

end Sys2Proof.Machine
end

section
/-! SUPPORT. The CRC, chunk and counter commands (41_crc.md R94 to R100, R106). -/

namespace Sys2Proof.Machine

/-! ## The effect of each command -/

/-- CRC_INIT (R94). -/
theorem exec_crcInit (s : State) : exec .crcInit s = .next (((s.setCrc crcInit).setCnt 0#32).deliver .ok 0#32) := rfl

/-- CRC_BYTE (R95). -/
theorem exec_crcByte (b : Byte) (s : State) : exec (.crcByte b) s =
    .next (((s.setCrc (crcByte s.crc b)).setCnt (s.cnt + 1#32)).deliver .ok 0#32) := rfl

/-- CRC_READ (R98). -/
theorem exec_crcRead (s : State) : exec .crcRead s = .next (s.deliver .ok (crcValue s.crc)) := rfl

/-- CRC_CHECK against the CRC value (R99). -/
theorem exec_crcCheck_of_eq {w : Word} {s : State} (h : crcValue s.crc = w) :
    exec (.crcCheck w) s = .next (s.deliver .ok (crcValue s.crc)) := if_pos h

/-- CRC_CHECK against any other word raises CRC_MISMATCH, with the CRC value as result (R99). -/
theorem exec_crcCheck_of_ne {w : Word} {s : State} (h : crcValue s.crc ≠ w) :
    exec (.crcCheck w) s = raise .crcMismatch (crcValue s.crc) s := if_neg h

/-- The status of CRC_CHECK on a remainder: all 32 bits of the CRC value count (R99). -/
def checkStatus (c w : Word) : Status := if crcValue c = w then .ok else .crcMismatch

theorem checkStatus_eq_ok_iff (c w : Word) : checkStatus c w = .ok ↔ crcValue c = w := by
  simp [checkStatus]

/-- CRC_CHECK in both outcomes at once, since OK sets no bit of `err` (R99, R133). -/
theorem exec_crcCheck (w : Word) (s : State) : exec (.crcCheck w) s =
    .next ((s.setErr (s.err ||| (checkStatus s.crc w).errMask)).deliver (checkStatus s.crc w) (crcValue s.crc)) := by
  by_cases h : crcValue s.crc = w
  · rw [exec_crcCheck_of_eq h, checkStatus, if_pos h, errMask_ok, BitVec.or_zero]
    rfl
  · rw [exec_crcCheck_of_ne h, checkStatus, if_neg h, raise_eq]

/-- CNT_READ (R106). -/
theorem exec_cntRead (s : State) : exec .cntRead s = .next (s.deliver .ok s.cnt) := rfl

/-- What the host presents as a command has that command's effect. -/
theorem take_legal {c : Command} {i : Instr} (h : decode c = .legal i) (s : State) :
    take (.command c) s = exec i s := by
  simp only [take, h]

/-- `rst` (R150). -/
theorem take_reset (s : State) : take .reset s = .next s.resetRegisters.silent := rfl

/-! ## Runs of commands

What the host presents later does not matter to a command, so a run follows the commands' effects on one state. -/

/-- A command has its effect whatever the host is going to present after it. -/
theorem exec_setInputs {i : Instr} {s t : State} (h : exec i s = .next t) (es : List HostEvent) :
    exec i (s.setInputs es) = .next (t.setInputs es) := by
  obtain ⟨t', ht', hport⟩ := exec_port i s ⟨es, s.output⟩
  obtain rfl : t = t' := by simpa [h] using ht'
  exact hport

/-- A run of commands goes on from the effect of the first. -/
theorem runInputs_exec {i : Instr} {s t : State} (h : exec i s = .next t) (is : List Instr) :
    runInputs (s.setInputs (presented (i :: is))) = runInputs (t.setInputs (presented is)) :=
  runInputs_presented_cons rfl (exec_setInputs h _)

/-- A run of two commands is the effect of the second on what the first leaves. -/
theorem runInputs_pair {i j : Instr} {s t : State} (h : exec i s = .next t) :
    runInputs (s.setInputs (presented [i, j])) = exec j (t.setInputs []) :=
  (runInputs_exec h [j]).trans (runInputs_presented_singleton rfl)

/-- A run of commands shows what the first delivers, then what the rest show. -/
theorem runResponses_exec {i : Instr} {s t : State} (h : exec i s = .next t) (is : List Instr) :
    runResponses (s.setInputs (presented (i :: is))) =
      t.output.toList ++ runResponses (t.setInputs (presented is)) :=
  runResponses_cons (s := s.setInputs (presented (i :: is))) (e := .command (encode i)) rfl
    ((take_legal (decode_encode i) _).trans (exec_setInputs h _))

/-- A command right after `rst` runs on the reset registers. -/
theorem runInputs_reset_then (s : State) (i : Instr) :
    runInputs (s.setInputs (.reset :: presented [i])) = exec i (s.resetRegisters.silent.setInputs []) :=
  (runInputs_cons (es := presented [i]) rfl (take_reset _)).trans (runInputs_presented_singleton rfl)

/-! ## Values the rules' examples name -/

theorem reset_crc : State.reset.crc = crcInit := rfl

/-- No byte has been fed: the CRC value is 0 (R105). -/
theorem crcValue_crcInit : crcValue crcInit = 0x00000000#32 := by decide

/-- Before any byte CRC_READ answers 0 (R98). -/
theorem exec_crcRead_of_nothing_fed {s : State} (h : s.crc = crcInit) :
    exec .crcRead s = .next (s.deliver .ok 0#32) := by
  rw [exec_crcRead, h, crcValue_crcInit]

/-- One zero byte from reset (R95). -/
theorem crcByte_crcInit_zero : crcByte crcInit 0x00#8 = 0x2DFD1072#32 := by decide +kernel

/-- 'IEND' from reset (R96). -/
theorem crcWord_crcInit_iend : crcWord crcInit 0x49454E44#32 = 0x51BD9F7D#32 := by decide +kernel

/-- 'RuSt' from reset (R100). -/
theorem crcWord_crcInit_ruSt : crcWord crcInit 0x52755374#32 = 0x2B7BF6C3#32 := by decide +kernel

/-- The CRC of the chunk IEND (R98, R105). -/
theorem crcValue_crcWord_iend : crcValue (crcWord crcInit 0x49454E44#32) = 0xAE426082#32 := by
  rw [crcWord_crcInit_iend]
  decide

/-! ## The commands' statements -/

/-- Settles O15: `exec_crcInit` overwrites what a first CRC_INIT left, and CRC_READ after it finds the initial
remainder. -/
theorem crcInitStartsANewCrc : Obligations.CrcInitStartsANewCrc := by
  refine ⟨decode_cmd .crcInit, exec_crcInit, fun s => ?twice, fun s => ?read⟩
  case twice =>
    exact ⟨_, _, (runInputs_presented_singleton rfl).trans (exec_crcInit _),
      (runInputs_pair (exec_crcInit s)).trans (exec_crcInit _), rfl⟩
  case read => exact ⟨_, (runInputs_pair (exec_crcInit s)).trans (exec_crcRead_of_nothing_fed rfl), rfl⟩

/-- Settles O16: `exec_crcByte`, with the counter's wrap and the example evaluated. -/
theorem crcByteFeedsOneByte : Obligations.CrcByteFeedsOneByte := by
  refine ⟨decode_cmd .crcByte, exec_crcByte, fun b s => ⟨_, exec_crcByte b _, by simp⟩, ?vector⟩
  have crc : crcByte crcInit ((0#32).extractLsb' 0 8) = 0x2DFD1072#32 := crcByte_crcInit_zero
  refine ⟨_, (step_legal State.reset [] (decode_cmd .crcByte _)).trans (exec_crcByte _ _), crc, ?_, rfl⟩
  exact (congrArg crcValue crc).trans (by decide)

/-- Settles O17: `crcWord` is the four byte steps, and four CRC_BYTE commands add 1 to the counter four times. -/
theorem crcWordFeedsFourBytes : Obligations.CrcWordFeedsFourBytes := by
  refine ⟨decode_cmd .crcWord, exec_crcWord, fun w s => ?bytes, fun w s => ⟨_, exec_crcWord w _, by simp⟩,
    ?vector⟩
  case bytes =>
    have four := (runInputs_exec (exec_crcByte (w.extractLsb' 24 8) s) _).trans <|
      (runInputs_exec (exec_crcByte (w.extractLsb' 16 8) _) _).trans <|
      (runInputs_pair (exec_crcByte (w.extractLsb' 8 8) _)).trans (exec_crcByte (w.extractLsb' 0 8) _)
    exact ⟨_, _, exec_crcWord w s, four, by simp [BitVec.add_assoc, crcWord, byteAt]⟩
  case vector =>
    refine ⟨_, (step_legal State.reset [] (decode_cmd .crcWord _)).trans (exec_crcWord _ _), ?_, ?_, rfl⟩
    · simp [reset_crc, crcWord_crcInit_iend]
    · simp [reset_crc, crcValue_crcWord_iend]

/-- Settles O18: reset and CRC_INIT leave the initial remainder, CHUNK_START that of the type. -/
theorem crcReadAnswersTheCrc : Obligations.CrcReadAnswersTheCrc := by
  refine ⟨decode_cmd .crcRead, exec_crcRead, fun s e he => ?fresh, fun s => ?vector⟩
  case fresh =>
    simp only [List.mem_cons, List.not_mem_nil, or_false] at he
    obtain rfl | rfl := he
    · exact ⟨_, (runInputs_reset_then s _).trans (exec_crcRead_of_nothing_fed rfl), rfl⟩
    · exact ⟨_, (runInputs_pair (exec_crcInit s)).trans (exec_crcRead_of_nothing_fed rfl), rfl⟩
  case vector =>
    exact ⟨_, (runInputs_pair (exec_chunkStart _ s)).trans (exec_crcRead _), by simp [crcValue_crcWord_iend]⟩

/-- Settles O19: the two outcomes are `exec_crcCheck_of_eq` and `exec_crcCheck_of_ne`, and neither changes the CRC, so a
repeated check finds the same value. -/
theorem crcCheckComparesAllBits : Obligations.CrcCheckComparesAllBits := by
  refine ⟨decode_cmd .crcCheck, fun w s h => exec_crcCheck_of_eq h, fun w s h => exec_crcCheck_of_ne h,
    fun w s => ?fresh, fun w s => ?repeated, fun s => ?vector⟩
  case fresh =>
    have passes : checkStatus crcInit w = .ok ↔ w = 0#32 := by rw [checkStatus_eq_ok_iff, crcValue_crcInit, eq_comm]
    exact ⟨_, _, (runInputs_pair (exec_crcInit s)).trans (exec_crcCheck w _), rfl, passes⟩
  case repeated =>
    have responses : runResponses (s.setInputs (presented [.crcCheck w, .crcCheck w])) =
        [⟨checkStatus s.crc w, crcValue s.crc⟩, ⟨checkStatus s.crc w, crcValue s.crc⟩] := by
      rw [runResponses_exec (exec_crcCheck w s), runResponses_exec (exec_crcCheck w _), runResponses_nil rfl]
      rfl
    exact ⟨_, _, (runInputs_pair (exec_crcCheck w s)).trans (exec_crcCheck w _), responses⟩
  case vector =>
    have run (w : Word) := (runInputs_pair (exec_chunkStart 0x49454E44#32 s)).trans (exec_crcCheck w _)
    have passes : checkStatus (crcWord crcInit 0x49454E44#32) 0xAE426082#32 = .ok := by
      rw [checkStatus_eq_ok_iff, crcValue_crcWord_iend]
    have fails : checkStatus (crcWord crcInit 0x49454E44#32) 0xAE426083#32 = .crcMismatch := by
      simp [checkStatus, crcValue_crcWord_iend]
    exact ⟨_, _, run _, by simp [passes, crcValue_crcWord_iend], run _, by simp [fails, crcValue_crcWord_iend],
      by simp [fails]⟩

/-- Settles O20: CHUNK_START checks nothing, so `exec_chunkStart` is its effect for every word. -/
theorem chunkStartFeedsTheType : Obligations.ChunkStartFeedsTheType := by
  refine ⟨decode_cmd .chunkStart, exec_chunkStart, ?valid, ?invalid⟩
  case valid =>
    refine ⟨_, (step_legal State.reset [] (decode_cmd .chunkStart _)).trans (exec_chunkStart _ _), ?_, rfl, rfl, ?_⟩
    · simp [crcWord_crcInit_ruSt]
    · simp [flags_ruSt]
  case invalid =>
    exact ⟨_, (step_legal State.reset [] (decode_cmd .chunkStart _)).trans (exec_chunkStart _ _),
      by simp [flags_rust]⟩

end Sys2Proof.Machine
end

section
/-! SUPPORT. The payload between the commands that start a new CRC (41_crc.md R92, R95 to R97, R102): what is in the CRC
and in the counter after any commands, and after a chunk. -/

namespace Sys2Proof.Machine

/-! ## Any commands that do not start a new CRC -/

/-- A command that does not start a new CRC takes its payload bytes into the CRC and counts them; most have none. -/
theorem exec_feeds_payload {i : Instr} (s : State) (h : i.mnemonic ∉ [.crcInit, .chunkStart, .sreset]) :
    ∃ t, exec i s = .next t ∧ t.crc = crcSeq s.crc (payloadOf i) ∧
      t.cnt = s.cnt + BitVec.ofNat 32 (payloadOf i).length := by
  have none_counted : s.cnt = s.cnt + BitVec.ofNat 32 0 := (BitVec.add_zero _).symm
  cases i with
  | crcInit | chunkStart t | sreset => simp [Instr.mnemonic] at h
  | crcByte b | crcWord w => exact ⟨_, rfl, rfl, rfl⟩
  | crcCheck w => exact ⟨_, exec_crcCheck w s, rfl, none_counted⟩
  | typeLoadc t =>
    by_cases hv : validType t = true
    · exact ⟨_, exec_typeLoadc_of_valid s hv, rfl, none_counted⟩
    · exact ⟨_, exec_typeLoadc_of_invalid s hv, rfl, none_counted⟩
  | nop | crcRead | typeLoad t | typeRead | typeFlags | cntRead | errRead | errClear =>
    exact ⟨_, rfl, rfl, none_counted⟩

/-- Through any such commands the CRC goes on over the payload bytes and the counter by their number. -/
theorem runInputs_feeds_payload (s : State) (is js : List Instr)
    (h : ∀ i ∈ is, i.mnemonic ∉ [.crcInit, .chunkStart, .sreset]) :
    ∃ t : State, runInputs (s.setInputs (presented (is ++ js))) = runInputs (t.setInputs (presented js)) ∧
      t.crc = crcSeq s.crc (is.flatMap payloadOf) ∧
      t.cnt = s.cnt + BitVec.ofNat 32 (is.flatMap payloadOf).length := by
  induction is generalizing s with
  | nil => exact ⟨s, rfl, rfl, (BitVec.add_zero _).symm⟩
  | cons i is ih =>
    obtain ⟨hi, his⟩ := List.forall_mem_cons.mp h
    obtain ⟨u, hu, hcrc, hcnt⟩ := exec_feeds_payload s hi
    obtain ⟨t, ht, htcrc, htcnt⟩ := ih u his
    refine ⟨t, (runInputs_exec hu _).trans ht, ?_, ?_⟩
    · rw [htcrc, hcrc, List.flatMap_cons, crcSeq_append]
    · rw [htcnt, hcnt, List.flatMap_cons, List.length_append, BitVec.ofNat_add, BitVec.add_assoc]

/-! ## A chunk -/

/-- FEED carries its bytes (R58). -/
theorem feed_payload (bs : List Byte) : (feed bs).flatMap payloadOf = bs := by
  induction bs using feed_induction with
  | short bs h =>
    rw [feed_of_length_lt h, List.flatMap_map]
    exact List.flatMap_singleton' bs
  | four b0 b1 b2 b3 bs ih => simp [feed, payloadOf, ih]

/-- FEED starts no new CRC (R58). -/
theorem feed_mnemonic (bs : List Byte) : ∀ i ∈ feed bs, i.mnemonic ∉ [.crcInit, .chunkStart, .sreset] := by
  induction bs using feed_induction with
  | short bs h => simp [feed_of_length_lt h, Instr.mnemonic]
  | four b0 b1 b2 b3 bs ih => exact List.forall_mem_cons.mpr ⟨by simp [Instr.mnemonic], ih⟩

/-- After the chunk's commands the CRC covers type and payload, and the payload alone is counted (R92, R97). -/
theorem runInputs_chunk (s : State) (t : Word) (p : List Byte) (js : List Instr) :
    ∃ u : State, runInputs (s.setInputs (presented (chunk t p ++ js))) = runInputs (u.setInputs (presented js)) ∧
      crcValue u.crc = chunkCrc t p ∧ u.cnt = BitVec.ofNat 32 p.length := by
  obtain ⟨u, hu, hcrc, hcnt⟩ := runInputs_feeds_payload _ (feed p) js (feed_mnemonic p)
  refine ⟨u, (runInputs_exec (exec_chunkStart t s) _).trans hu, ?_, ?_⟩
  · rw [hcrc, feed_payload, chunkCrc, crc32, crcSeq_append]
    rfl
  · simp [hcnt, feed_payload]

/-! ## The statements -/

/-- Settles O21: `exec_cntRead` finds the 0 of a restart, or after a chunk the payload's length modulo 2^32 by
`runInputs_chunk`. -/
theorem cntReadAnswersThePayloadCount : Obligations.CntReadAnswersThePayloadCount := by
  refine ⟨decode_cmd .cntRead, exec_cntRead, fun s t e he => ?restart, fun s t p hp => ?chunk⟩
  case restart =>
    simp only [List.mem_cons, List.not_mem_nil, or_false] at he
    obtain rfl | rfl | rfl := he
    · exact ⟨_, (runInputs_reset_then s _).trans (exec_cntRead _), rfl⟩
    · exact ⟨_, (runInputs_pair (exec_crcInit s)).trans (exec_cntRead _), rfl⟩
    · exact ⟨_, (runInputs_pair (exec_chunkStart t s)).trans (exec_cntRead _), rfl⟩
  case chunk =>
    obtain ⟨u, hu, -, hcnt⟩ := runInputs_chunk s t p [.cntRead]
    refine ⟨_, (hu.trans (runInputs_presented_singleton rfl)).trans (exec_cntRead _), ?_⟩
    obtain hlen | hlen := hp <;> simp [hcnt, hlen]

/-- Settles O22: the commands that start a new CRC write 0, every other one counts its payload by `exec_feeds_payload`,
and a run of those adds up. -/
theorem cntCountsPayloadBytes : Obligations.CntCountsPayloadBytes := by
  refine ⟨fun s i => ?command, fun s es => ⟨_, step_reset s es, rfl⟩, fun s r => ⟨_, raise_eq _ _ s, rfl⟩,
    fun s start is hstart his => ?run⟩
  case command =>
    have feeds := exec_feeds_payload (i := i) s
    cases i with
    | crcInit | chunkStart t | sreset => exact ⟨_, rfl, fun _ => rfl, by simp, by simp, by simp [Instr.mnemonic]⟩
    | nop | crcByte b | crcWord w | crcRead | crcCheck w | typeLoad t | typeLoadc t | typeRead | typeFlags | cntRead
    | errRead | errClear =>
      obtain ⟨t, ht, -, hcnt⟩ := feeds (by simp [Instr.mnemonic])
      exact ⟨t, ht, by simpa [Instr.mnemonic, payloadOf] using hcnt⟩
  case run =>
    have starts : ∃ t, exec start s = .next t ∧ t.cnt = 0#32 := by
      obtain rfl | ⟨w, rfl⟩ := hstart
      · exact ⟨_, exec_crcInit s, rfl⟩
      · exact ⟨_, exec_chunkStart w s, rfl⟩
    obtain ⟨t, ht, hzero⟩ := starts
    obtain ⟨u, hu, -, hcnt⟩ := runInputs_feeds_payload t is [] his
    rw [List.append_nil] at hu
    exact ⟨_, ((runInputs_exec ht is).trans hu).trans (runInputs_nil rfl), by simp [hcnt, hzero]⟩

/-- Settles O33: the first part is `crc32_ne_of_byte_ne`; so after the altered chunk CRC_CHECK finds a CRC value that is
not the stored one. -/
theorem singleByteCorruptionIsDetected : Obligations.SingleByteCorruptionIsDetected := by
  refine ⟨fun l r a b => crc32_ne_of_byte_ne l r, fun s t t' p p' l r a b hab hp hp' => ?verify⟩
  obtain ⟨u, hu, hcrc, -⟩ := runInputs_chunk s t' p' [.crcCheck (chunkCrc t p)]
  have altered : crcValue u.crc ≠ chunkCrc t p := by
    rw [hcrc, chunkCrc, chunkCrc, hp, hp']
    exact (crc32_ne_of_byte_ne l r hab).symm
  refine ⟨_, _, (hu.trans (runInputs_presented_singleton rfl)).trans (exec_crcCheck_of_ne altered), rfl, ?_⟩
  simp

end Sys2Proof.Machine
end

section
/-! SUPPORT. The control commands (42_control.md R115 to R118). -/

namespace Sys2Proof.Machine

/-! ## The effect of each command -/

/-- NOP (R115). -/
theorem exec_nop (s : State) : exec .nop s = .next (s.deliver .ok 0#32) := rfl

/-- ERR_READ (R116): the zero extension puts 29 zero bits above `err`. -/
theorem exec_errRead (s : State) : exec .errRead s = .next (s.deliver .ok (0#29 ++ s.err)) := by
  have zero_extended : s.err.setWidth 32 = 0#29 ++ s.err := BitVec.setWidth_eq_append (by decide)
  rw [← zero_extended]
  rfl

/-- ERR_CLEAR (R117). -/
theorem exec_errClear (s : State) : exec .errClear s = .next ((s.setErr 0b000#3).deliver .ok 0#32) := rfl

/-- SRESET (R118). -/
theorem exec_sreset (s : State) : exec .sreset s = .next (s.resetRegisters.deliver .ok 0#32) := rfl

/-- A run goes on after an illegal command from the state with `err[0]` set (R134). -/
theorem runInputs_illegal {c : Command} (s : State) (es : List HostEvent) (h : ∃ r, decode c = .illegal r) :
    runInputs (s.setInputs (.command c :: es)) =
      runInputs (((s.setErr (s.err ||| Status.illegalCmd.errMask)).deliver .illegalCmd 0#32).setInputs es) :=
  runInputs_cons rfl ((step_cons rfl).symm.trans (step_illegal s es h))

/-! ## The statements -/

/-- Settles O11: every `wdata` decodes to NOP, and `exec_nop` is its effect. -/
theorem nopOnlyAnswers : Obligations.NopOnlyAnswers :=
  ⟨decode_cmd .nop, exec_nop⟩

/-- Settles O12: `exec_errRead` is the effect; in the example the illegal command sets bit 0 of `err` and the refused
TYPE_LOADC sets bit 1, so ERR_READ answers 3. -/
theorem errReadAnswersErrZeroExtended : Obligations.ErrReadAnswersErrZeroExtended := by
  refine ⟨decode_cmd .errRead, exec_errRead, ?vector⟩
  have illegal : ∃ r, decode ⟨0x0F#8, 0#32⟩ = .illegal r := (decode_illegal_iff _).mpr (.inr rfl)
  have refused (s : State) := (exec_typeLoadc_of_invalid (t := 0x52757374#32) s (by decide)).trans (raise_eq _ _ s)
  have run := (runInputs_illegal State.reset (presented [.typeLoadc 0x52757374#32, .errRead]) illegal).trans <|
    (runInputs_pair (refused _)).trans (exec_errRead _)
  exact ⟨_, run, rfl⟩

/-- Settles O13: every `wdata` decodes to ERR_CLEAR, and `exec_errClear` writes `err` alone. -/
theorem errClearClearsAllBits : Obligations.ErrClearClearsAllBits :=
  ⟨decode_cmd .errClear, exec_errClear⟩

/-- Settles O14: every `wdata` decodes to SRESET, and `exec_sreset` leaves the reset values whatever the registers
held. -/
theorem sresetSetsEveryRegister : Obligations.SresetSetsEveryRegister :=
  ⟨decode_cmd .sreset, exec_sreset⟩

end Sys2Proof.Machine
end

section
/-! SUPPORT. The status of every command and its bit of `err` (60_exceptions.md R130 to R134). -/

namespace Sys2Proof.Machine

/-! ## Which row of the opcode map a legal command is -/

/-- The table of R53 has a different `cmd` for each mnemonic: the opcode map reads it back. -/
theorem cmd_injective : Function.Injective Mnemonic.cmd := by
  intro m n h
  have read_back := ofOp_cmd m
  rw [h, ofOp_cmd] at read_back
  exact (Option.some.inj read_back).symm

/-- Operand assembly keeps the mnemonic (R52). -/
@[simp] theorem withOperand_mnemonic (m : Mnemonic) (w : Word) : (m.withOperand w).mnemonic = m := by
  cases m <;> rfl

/-- A legal command has its row's `cmd` (R53). -/
theorem cmd_of_decode_legal {c : Command} {i : Instr} (h : decode c = .legal i) : c.cmd = i.mnemonic.cmd := by
  obtain ⟨m, hcmd, rfl⟩ := exists_mnemonic_of_decode_legal h
  rw [hcmd, withOperand_mnemonic]

/-! ## The status a legal command ends with -/

/-- The status of a legal command, read from the state before it (R79, R99, R130). -/
def statusOf (i : Instr) (s : State) : Status :=
  match i with
  | .crcCheck w => checkStatus s.crc w
  | .typeLoadc t => if validType t then .ok else .invalidType
  | .nop | .crcInit | .crcByte _ | .crcWord _ | .crcRead | .typeLoad _ | .typeRead | .typeFlags | .chunkStart _
  | .cntRead | .errRead | .errClear | .sreset => .ok

/-- Only the decoder gives ILLEGAL_CMD (R132). -/
theorem statusOf_ne_illegalCmd (i : Instr) (s : State) : statusOf i s ≠ .illegalCmd := by
  cases i with
  | crcCheck w => by_cases h : crcValue s.crc = w <;> simp [statusOf, checkStatus, h]
  | typeLoadc t => cases h : validType t <;> simp [statusOf, h]
  | _ => simp [statusOf]

/-- INVALID_TYPE is TYPE_LOADC of a type that is not valid (R79). -/
theorem statusOf_eq_invalidType_iff (m : Mnemonic) (w : Word) (s : State) :
    statusOf (m.withOperand w) s = .invalidType ↔ m = .typeLoadc ∧ validType w = false := by
  cases m with
  | crcCheck => by_cases h : crcValue s.crc = w <;> simp [statusOf, Mnemonic.withOperand, checkStatus, h]
  | typeLoadc => simp [statusOf, Mnemonic.withOperand]
  | _ => simp [statusOf, Mnemonic.withOperand]

/-- CRC_MISMATCH is CRC_CHECK of a word other than the CRC value (R99). -/
theorem statusOf_eq_crcMismatch_iff (m : Mnemonic) (w : Word) (s : State) :
    statusOf (m.withOperand w) s = .crcMismatch ↔ m = .crcCheck ∧ crcValue s.crc ≠ w := by
  cases m with
  | crcCheck => simp [statusOf, Mnemonic.withOperand, checkStatus]
  | typeLoadc => cases h : validType w <;> simp [statusOf, Mnemonic.withOperand, h]
  | _ => simp [statusOf, Mnemonic.withOperand]

/-! ## How a command ends -/

/-- OK sets no bit of `err`, so responding OK is raising it (R133, log 15). -/
theorem respond_ok (rd : Word) (s : State) : respond .ok rd s = raise .ok rd s := by
  rw [raise_eq, errMask_ok, BitVec.or_zero]
  rfl

/-- Every legal command ends by raising its status, with its row's result. Only an OK command does something before that,
and only ERR_CLEAR and SRESET write `err` then. -/
theorem exec_raises (i : Instr) (s : State) :
    ∃ u, exec i s = raise (statusOf i s) (rdataOf i s) u ∧ (statusOf i s ≠ .ok → u = s) ∧
      (i.mnemonic ≠ .errClear → i.mnemonic ≠ .sreset → u.err = s.err) := by
  cases i with
  | crcCheck w => exact ⟨s, exec_crcCheck w s, fun _ => rfl, fun _ _ => rfl⟩
  | typeLoadc t =>
    by_cases hv : validType t = true
    · rw [statusOf, if_pos hv, exec_typeLoadc_of_valid s hv]
      exact ⟨s.setCtype t, respond_ok _ _, fun h => absurd rfl h, fun _ _ => rfl⟩
    · rw [statusOf, if_neg hv]
      exact ⟨s, exec_typeLoadc_of_invalid s hv, fun _ => rfl, fun _ _ => rfl⟩
  | errClear | sreset => exact ⟨_, respond_ok _ _, fun h => absurd rfl h, by simp [Instr.mnemonic]⟩
  | nop | crcInit | crcByte b | crcWord w | crcRead | typeLoad t | typeRead | typeFlags | chunkStart t | cntRead
  | errRead => exact ⟨_, respond_ok _ _, fun h => absurd rfl h, fun _ _ => rfl⟩

/-! ## The statements -/

/-- Settles O35: `step_illegal` is the effect, and in the example 0x1F has `z` not 0. -/
theorem illegalCommandSetsErrZero : Obligations.IllegalCommandSetsErrZero := by
  have effect (s : State) (c : Command) (es : List HostEvent) (h : c.z ≠ 0#4 ∨ c.cmd = 0x0F#8) :=
    step_illegal s es ((decode_illegal_iff c).mpr h)
  exact ⟨effect, effect State.reset ⟨0x1F#8, 0#32⟩ [] (by decide)⟩

/-- Settles O36: a legal command answers `statusOf`, whose causes are the three lemmas about it and are exclusive; an
illegal command answers ILLEGAL_CMD and has the `cmd` of no row, so the other causes fail. -/
theorem statusHasItsCause : Obligations.StatusHasItsCause := by
  refine ⟨⟨rfl, rfl, rfl, rfl⟩, fun s c es => ?_⟩
  cases hd : decode c with
  | legal i =>
    obtain ⟨m, hcmd, rfl⟩ := exists_mnemonic_of_decode_legal hd
    obtain ⟨u, hexec, -⟩ := exec_raises (m.withOperand c.wdata) (s.setInputs es)
    have row (n : Mnemonic) : c.cmd = n.cmd ↔ m = n := by rw [hcmd, cmd_injective.eq_iff]
    have not_illegal := statusOf_ne_illegalCmd (m.withOperand c.wdata) (s.setInputs es)
    have invalid := statusOf_eq_invalidType_iff m c.wdata (s.setInputs es)
    have mismatch := statusOf_eq_crcMismatch_iff m c.wdata (s.setInputs es)
    refine ⟨_, _, (step_legal s es hd).trans hexec, rfl, ?illegal_iff, ?invalid_iff, ?mismatch_iff,
      fun h => absurd h not_illegal, fun h => ?invalid_rdata, fun h => ?mismatch_rdata⟩
    case illegal_iff => exact iff_of_false not_illegal (by simp [← decode_illegal_iff, hd])
    case invalid_iff => exact invalid.trans (and_congr_left' (row .typeLoadc).symm)
    case mismatch_iff => exact mismatch.trans (and_congr_left' (row .crcCheck).symm)
    case invalid_rdata =>
      obtain ⟨rfl, -⟩ := invalid.mp h
      rfl
    case mismatch_rdata =>
      obtain ⟨rfl, -⟩ := mismatch.mp h
      rfl
  | illegal r =>
    refine ⟨_, _, step_illegal s es ⟨r, hd⟩, rfl, iff_of_true rfl ((decode_illegal_iff c).mp ⟨r, hd⟩),
      iff_of_false (by simp) ?_, iff_of_false (by simp) ?_, fun _ => ⟨rfl, rfl, rfl, rfl⟩, by simp, by simp⟩
    · exact fun ⟨hcmd, _⟩ => cmd_ne_of_decode_illegal hd .typeLoadc hcmd
    · exact fun ⟨hcmd, _⟩ => cmd_ne_of_decode_illegal hd .crcCheck hcmd

/-- Settles O37: raising a status ORs in its mask (`exec_raises`, `step_illegal`), and the mask of OK is 0. -/
theorem errIsSticky : Obligations.ErrIsSticky := by
  intro s c es
  cases hd : decode c with
  | legal i =>
    obtain ⟨u, hexec, herror, hok⟩ := exec_raises i (s.setInputs es)
    have mask {st : Status} (hst : statusOf i (s.setInputs es) = st) (hne : st ≠ .ok) :
        u.err ||| (statusOf i (s.setInputs es)).errMask = s.err ||| st.errMask := by
      rw [herror (hst ▸ hne), hst]
      rfl
    refine ⟨_, _, (step_legal s es hd).trans hexec, rfl, fun h => mask h (by decide), fun h => mask h (by decide),
      fun h => mask h (by decide), fun h notClear notSreset => ?ok⟩
    have unwritten : u.err = s.err := by
      refine hok (fun hm => notClear ?_) (fun hm => notSreset ?_) <;> rw [cmd_of_decode_legal hd, hm] <;> rfl
    have no_bit : (statusOf i (s.setInputs es)).errMask = 0#3 := congrArg Status.errMask h
    simp [no_bit, unwritten]
  | illegal r => exact ⟨_, _, step_illegal s es ⟨r, hd⟩, rfl, by simp⟩

end Sys2Proof.Machine
end

section
/-! SUPPORT. Earlier errors and later commands (60_exceptions.md R136): no command but ERR_READ shows what `err` holds. -/

namespace Sys2Proof.Machine

/-- The same state but for `err` and for the last step's result, which no step reads (log 2). -/
def State.sameButErr (s s' : State) : Prop :=
  ∃ (v : BitVec 3) (o : Option Response), s' = { s with err := v, output := o }

theorem State.sameButErr.setInputs {s s' : State} (h : s.sameButErr s') (es : List HostEvent) :
    (s.setInputs es).sameButErr (s'.setInputs es) := by
  obtain ⟨v, o, rfl⟩ := h
  exact ⟨v, o, rfl⟩

/-- A command has the same effect whatever `err` holds, and answers the same unless it is ERR_READ. -/
theorem exec_sameButErr (i : Instr) {s s' : State} (h : s.sameButErr s') :
    ∃ t t', exec i s = .next t ∧ exec i s' = .next t' ∧ t.sameButErr t' ∧
      (i ≠ .errRead → t'.output = t.output) := by
  obtain ⟨v, o, rfl⟩ := h
  cases i with
  | crcCheck w => exact ⟨_, _, exec_crcCheck w _, exec_crcCheck w _, ⟨_, _, rfl⟩, fun _ => rfl⟩
  | typeLoadc t =>
    by_cases hv : validType t = true
    · exact ⟨_, _, exec_typeLoadc_of_valid _ hv, exec_typeLoadc_of_valid _ hv, ⟨_, _, rfl⟩, fun _ => rfl⟩
    · exact ⟨_, _, exec_typeLoadc_of_invalid _ hv, exec_typeLoadc_of_invalid _ hv, ⟨_, _, rfl⟩, fun _ => rfl⟩
  | errRead => exact ⟨_, _, rfl, rfl, ⟨_, _, rfl⟩, fun h => absurd rfl h⟩
  | nop | crcInit | crcByte b | crcWord w | crcRead | typeLoad t | typeRead | typeFlags | chunkStart t | cntRead
  | errClear | sreset => exact ⟨_, _, rfl, rfl, ⟨_, _, rfl⟩, fun _ => rfl⟩

/-- Whatever the host presents has the same effect whatever `err` holds, and answers the same unless it is ERR_READ. -/
theorem take_sameButErr (e : HostEvent) {s s' : State} (h : s.sameButErr s') :
    ∃ t t', take e s = .next t ∧ take e s' = .next t' ∧ t.sameButErr t' ∧
      ((∀ w : Word, .command ⟨0x0C#8, w⟩ ≠ e) → t'.output = t.output) := by
  cases e with
  | reset =>
    obtain ⟨v, o, rfl⟩ := h
    exact ⟨_, _, take_reset _, take_reset _, ⟨_, _, rfl⟩, fun _ => rfl⟩
  | command c =>
    cases hd : decode c with
    | legal i =>
      obtain ⟨t, t', ht, ht', hsame, hout⟩ := exec_sameButErr i h
      refine ⟨t, t', (take_legal hd s).trans ht, (take_legal hd s').trans ht', hsame, fun notRead => hout ?_⟩
      rintro rfl
      have reads : c.cmd = 0x0C#8 := cmd_of_decode_legal hd
      exact notRead c.wdata (by rw [← reads])
    | illegal r =>
      obtain ⟨v, o, rfl⟩ := h
      simp only [take, hd]
      exact ⟨_, _, rfl, rfl, ⟨_, _, rfl⟩, fun _ => rfl⟩

/-- The effect of an event leaves the rest of what the host presents. -/
theorem inputs_of_take {e : HostEvent} {s t : State} (h : take e s = .next t) : t.inputs = s.inputs := by
  obtain ⟨t', ht', hin⟩ := take_next e s
  obtain rfl := Host.Outcome.next.inj (h.symm.trans ht')
  exact hin

/-- A run of any events goes the same way whatever `err` holds, and shows the same if none is ERR_READ: each step
leaves states that are again the same but for `err` and the last result. -/
theorem run_sameButErr {es : List HostEvent} {s s' : State} (hs : s.inputs = es) (h : s.sameButErr s') :
    ∃ t t', runInputs s = .next t ∧ runInputs s' = .next t' ∧ t.sameButErr t' ∧
      ((∀ w : Word, .command ⟨0x0C#8, w⟩ ∉ es) → runResponses s' = runResponses s) := by
  have hs' : s'.inputs = es := by
    obtain ⟨v, o, rfl⟩ := h
    exact hs
  induction es generalizing s s' with
  | nil =>
    exact ⟨s, s', runInputs_nil hs, runInputs_nil hs', h, fun _ => by rw [runResponses_nil hs, runResponses_nil hs']⟩
  | cons e es ih =>
    obtain ⟨u, u', hu, hu', hsame, hout⟩ := take_sameButErr e (h.setInputs es)
    obtain ⟨t, t', ht, ht', hfinal, hresponses⟩ := ih (inputs_of_take hu) hsame (inputs_of_take hu')
    refine ⟨t, t', (runInputs_cons hs hu).trans ht, (runInputs_cons hs' hu').trans ht', hfinal, fun notRead => ?_⟩
    simp only [List.mem_cons, not_or, forall_and] at notRead
    obtain ⟨notFirst, notLater⟩ := notRead
    rw [runResponses_cons hs hu, runResponses_cons hs' hu', hout notFirst, hresponses notLater]

/-- Settles O39: `run_sameButErr` from two states that differ in `err`, whose final states then differ in `err` and the
last result alone. -/
theorem errorsDoNotAffectLaterCommands : Obligations.ErrorsDoNotAffectLaterCommands := by
  intro s v es
  obtain ⟨t, u, ht, hu, ⟨_, _, rfl⟩, hresponses⟩ := run_sameButErr (es := es) (s := { s with inputs := es })
    (s' := { s with err := v, inputs := es }) rfl ⟨v, s.output, rfl⟩
  exact ⟨t, _, ht, hu, rfl, rfl, rfl, hresponses⟩

end Sys2Proof.Machine
end

section
/-! SUPPORT. Reset, and commands between commands (70_reset_and_hazards.md R150, R152, R155): a run of events is cut at
any place, and what a step delivered has no effect on the steps after it. -/

namespace Sys2Proof.Machine

/-! ## Reset -/

/-- Settles O7: `step_reset`, whose state holds the four reset values. -/
theorem rstSetsEveryRegister : Obligations.RstSetsEveryRegister := step_reset

/-- Settles O8: `step_reset` and `exec_sreset` both end in `resetRegisters`, whose values are those of power-up. -/
theorem sresetAndRstAndPowerUpAgree : Obligations.SresetAndRstAndPowerUpAgree :=
  fun s w es => ⟨_, _, step_reset s es, (step_legal s es (decode_cmd .sreset w)).trans (exec_sreset _), rfl, rfl⟩

/-! ## A run cut in two -/

/-- An event has its effect whatever the host is going to present after it. -/
theorem take_setInputs {e : HostEvent} {s t : State} (h : take e s = .next t) (es : List HostEvent) :
    take e (s.setInputs es) = .next (t.setInputs es) := by
  obtain ⟨t', ht', hport⟩ := take_port e s ⟨es, s.output⟩
  obtain rfl := Host.Outcome.next.inj (h.symm.trans ht')
  exact hport

/-- A run goes on from the effect of its first event. -/
theorem runInputs_take {e : HostEvent} {s t : State} (h : take e s = .next t) (es : List HostEvent) :
    runInputs (s.setInputs (e :: es)) = runInputs (t.setInputs es) :=
  runInputs_cons (s := s.setInputs (e :: es)) rfl (take_setInputs h es)

/-- A run shows what its first event delivers, then what the rest show. -/
theorem runResponses_take {e : HostEvent} {s t : State} (h : take e s = .next t) (es : List HostEvent) :
    runResponses (s.setInputs (e :: es)) = t.output.toList ++ runResponses (t.setInputs es) :=
  runResponses_cons (s := s.setInputs (e :: es)) rfl (take_setInputs h es)

/-- The first events of a run lead to one state and show what they show alone, whatever comes after them. -/
theorem run_append (s : State) (es : List HostEvent) :
    ∃ m : State, ∀ es' : List HostEvent,
      runInputs (s.setInputs (es ++ es')) = runInputs (m.setInputs es') ∧
      runResponses (s.setInputs (es ++ es')) = runResponses (s.setInputs es) ++ runResponses (m.setInputs es') := by
  induction es generalizing s with
  | nil => exact ⟨s, fun es' => ⟨rfl, rfl⟩⟩
  | cons e es ih =>
    obtain ⟨u, hu, -⟩ := take_next e s
    obtain ⟨m, hm⟩ := ih u
    refine ⟨m, fun es' => ?_⟩
    obtain ⟨hrun, hresponses⟩ := hm es'
    refine ⟨(runInputs_take hu (es ++ es')).trans hrun, ?_⟩
    rw [List.cons_append, runResponses_take hu, runResponses_take hu, hresponses, List.append_assoc]

/-! ## NOPs in a run -/

/-- Every run ends in a next state. -/
theorem runInputs_next (s : State) : ∃ t, runInputs s = .next t := by
  obtain ⟨t, -, ht, -⟩ := run_sameButErr (s := s) rfl ⟨s.err, s.output, rfl⟩
  exact ⟨t, ht⟩

/-- What was delivered before a run is read by no step (log 2): the run's first event already leads to the same state. -/
theorem run_of_deliver (s : State) (st : Status) (rd : Word) (es : List HostEvent) :
    ∃ t u, runInputs (s.setInputs es) = .next t ∧ runInputs ((s.deliver st rd).setInputs es) = .next u ∧
      u.toRegisters = t.toRegisters ∧ runResponses ((s.deliver st rd).setInputs es) = runResponses (s.setInputs es) := by
  cases es with
  | nil => exact ⟨_, _, runInputs_nil rfl, runInputs_nil rfl, rfl, rfl⟩
  | cons e es =>
    obtain ⟨v, hv, hport⟩ := take_port e s (s.deliver st rd).toPort
    obtain ⟨t, ht⟩ := runInputs_next (v.setInputs es)
    exact ⟨t, t, (runInputs_take hv es).trans ht, (runInputs_take hport es).trans ht, rfl,
      (runResponses_take hport es).trans (runResponses_take hv es).symm⟩

/-- The host issuing NOP `n` times, with any operand word. -/
def nops (n : Nat) (w : Word) : List HostEvent := List.replicate n (.command ⟨0x00#8, w⟩)

/-- A NOP, whatever its operand word, answers OK with 0 and does nothing else (R115). -/
theorem take_nop (w : Word) (s : State) : take (.command ⟨0x00#8, w⟩) s = .next (s.deliver .ok 0#32) :=
  (take_legal (decode_cmd .nop w) s).trans (exec_nop s)

/-- NOPs before a run leave the same registers and show (OK, 0) each. -/
theorem run_nops (s : State) (n : Nat) (w : Word) (es : List HostEvent) :
    ∃ t u, runInputs (s.setInputs es) = .next t ∧ runInputs (s.setInputs (nops n w ++ es)) = .next u ∧
      u.toRegisters = t.toRegisters ∧
      runResponses (s.setInputs (nops n w ++ es)) = List.replicate n ⟨.ok, 0#32⟩ ++ runResponses (s.setInputs es) := by
  induction n generalizing s with
  | zero =>
    obtain ⟨t, ht⟩ := runInputs_next (s.setInputs es)
    exact ⟨t, t, ht, ht, rfl, rfl⟩
  | succ n ih =>
    obtain ⟨v, u, hv, hu, hvu, hresponses⟩ := ih (s.deliver .ok 0#32)
    obtain ⟨t, v', ht, hv', htv, hsame⟩ := run_of_deliver s .ok 0#32 es
    obtain rfl := Host.Outcome.next.inj (hv.symm.trans hv')
    refine ⟨t, u, ht, (runInputs_take (take_nop w s) (nops n w ++ es)).trans hu, hvu.trans htv, ?_⟩
    refine (runResponses_take (take_nop w s) (nops n w ++ es)).trans ?_
    rw [hresponses, hsame]
    rfl

/-- Settles O48: both runs reach the state of `run_append` before the NOPs, from where `run_nops` compares them; and
CRC_READ finds the remainder CRC_BYTE left. -/
theorem nopsBetweenCommandsChangeNothing : Obligations.NopsBetweenCommandsChangeNothing := by
  refine ⟨fun s es es' n w => ?nops, fun s b => ⟨_, (runInputs_pair (exec_crcByte b s)).trans (exec_crcRead _), rfl⟩⟩
  obtain ⟨m, hm⟩ := run_append s es
  obtain ⟨hrun, hresponses⟩ := hm es'
  obtain ⟨hrunNops, hresponsesNops⟩ := hm (nops n w ++ es')
  obtain ⟨t, u, ht, hu, hregisters, hnops⟩ := run_nops m n w es'
  rw [← List.append_assoc] at hrunNops
  rw [hnops, ← List.append_assoc, ← List.append_assoc] at hresponsesNops
  exact ⟨t, u, _, hrun.trans ht, hrunNops.trans hu, hregisters, hresponses, hresponsesNops⟩

end Sys2Proof.Machine
end

section
/-! SUPPORT. What a step can do, and runs of commands, with what they lead to and what they show (60_exceptions.md R141)
and the rule for an invariant of such a run. -/

namespace Sys2Proof.Machine

/-! ## A step -/

/-- An illegal command raises ILLEGAL_CMD with 0, whichever way it is illegal (R134). -/
theorem take_illegal {c : Command} {r : IllegalReason} (h : decode c = .illegal r) (s : State) :
    take (.command c) s = raise .illegalCmd 0#32 s := by
  simp only [take, h, execIllegal]

/-- A step has nothing presented and only delivers nothing (log 3), or it is the effect of the first event. -/
theorem step_cases {s t : State} (h : step s = .next t) :
    (s.inputs = [] ∧ t = s.silent) ∨ ∃ e es, s.inputs = e :: es ∧ take e (s.setInputs es) = .next t := by
  cases hs : s.inputs with
  | nil =>
    simp only [step, takeInput_nil hs, Host.Outcome.next.injEq] at h
    exact .inl ⟨rfl, h.symm⟩
  | cons e es => exact .inr ⟨e, es, rfl, (step_cons hs).symm.trans h⟩

/-! ## Runs of commands -/

/-- The commands lead from one state to the other and show these responses, whatever the host presents after them. -/
def Reaches (s : State) (is : List Instr) (t : State) (rs : List Response) : Prop :=
  ∀ js : List Instr,
    runInputs (s.setInputs (presented (is ++ js))) = runInputs (t.setInputs (presented js)) ∧
    runResponses (s.setInputs (presented (is ++ js))) = rs ++ runResponses (t.setInputs (presented js))

theorem Reaches.nil (s : State) : Reaches s [] s [] := fun _ => ⟨rfl, rfl⟩

/-- A first command leads to its effect and shows its response. -/
theorem Reaches.cons {i : Instr} {is : List Instr} {s t u : State} {r : Response} {rs : List Response}
    (h : exec i s = .next t) (hr : t.output = some r) (hrest : Reaches t is u rs) :
    Reaches s (i :: is) u (r :: rs) := by
  intro js
  obtain ⟨hrun, hresponses⟩ := hrest js
  refine ⟨(runInputs_exec h (is ++ js)).trans hrun, ?_⟩
  rw [List.cons_append, runResponses_exec h, hresponses, hr]
  rfl

theorem Reaches.single {i : Instr} {s t : State} {r : Response} (h : exec i s = .next t) (hr : t.output = some r) :
    Reaches s [i] t [r] := .cons h hr (.nil t)

/-- Commands after commands. -/
theorem Reaches.append {is js : List Instr} {s t u : State} {rs qs : List Response} (h : Reaches s is t rs)
    (h' : Reaches t js u qs) : Reaches s (is ++ js) u (rs ++ qs) := by
  intro ks
  obtain ⟨hrun, hresponses⟩ := h (js ++ ks)
  obtain ⟨hrun', hresponses'⟩ := h' ks
  rw [List.append_assoc, List.append_assoc]
  exact ⟨hrun.trans hrun', by rw [hresponses, hresponses']⟩

/-- A run of the commands alone ends in the state they lead to. -/
theorem Reaches.runInputs_eq {is : List Instr} {s t : State} {rs : List Response} (h : Reaches s is t rs) :
    runInputs (s.setInputs (presented is)) = .next (t.setInputs []) := by
  have hrun := (h []).1
  rw [List.append_nil] at hrun
  exact hrun.trans (runInputs_nil rfl)

/-- A run of the commands alone shows their responses. -/
theorem Reaches.runResponses_eq {is : List Instr} {s t : State} {rs : List Response} (h : Reaches s is t rs) :
    runResponses (s.setInputs (presented is)) = rs := by
  have hresponses := (h []).2
  rw [List.append_nil, runResponses_nil (s := t.setInputs (presented [])) rfl, List.append_nil] at hresponses
  exact hresponses

/-- What each of the commands keeps holds after all of them. -/
theorem reaches_keeps {P : State → Prop} {is : List Instr}
    (keeps : ∀ i ∈ is, ∀ s, P s → ∃ t, exec i s = .next t ∧ P t) {s : State} (hs : P s) :
    ∃ t rs, Reaches s is t rs ∧ P t := by
  induction is generalizing s with
  | nil => exact ⟨s, [], .nil s, hs⟩
  | cons i is ih =>
    obtain ⟨keepsFirst, keepsRest⟩ := List.forall_mem_cons.mp keeps
    obtain ⟨t, ht, hPt⟩ := keepsFirst s hs
    obtain ⟨t', r, ht', -, hr⟩ := exec_shape i s
    obtain rfl := Host.Outcome.next.inj (ht.symm.trans ht')
    obtain ⟨u, rs, hu, hPu⟩ := ih keepsRest hPt
    exact ⟨u, r :: rs, .cons ht hr hu, hPu⟩

/-- A command that leads back to the same state goes on doing so, with the same response. -/
theorem reaches_replicate {i : Instr} {t : State} {r : Response} (h : exec i t = .next t) (hr : t.output = some r)
    (n : Nat) : Reaches t (List.replicate n i) t (List.replicate n r) := by
  induction n with
  | zero => exact .nil t
  | succ n ih => exact .cons h hr ih

end Sys2Proof.Machine
end

section
/-! SUPPORT. The block refines the record-level machine (41_crc.md R91, R97; 10_state.md R20 to R25): one lemma per
command, then one step, then any run. -/

namespace Sys2Proof.Machine

/-! ## The error bits by status -/

/-- `err[0]` is the bit of ILLEGAL_CMD (R25, R133). -/
theorem errMask_getLsbD_zero (st : Status) : st.errMask.getLsbD 0 = true ↔ st = .illegalCmd := by cases st <;> decide

/-- `err[1]` is the bit of INVALID_TYPE (R25, R133). -/
theorem errMask_getLsbD_one (st : Status) : st.errMask.getLsbD 1 = true ↔ st = .invalidType := by cases st <;> decide

/-- `err[2]` is the bit of CRC_MISMATCH (R25, R133). -/
theorem errMask_getLsbD_two (st : Status) : st.errMask.getLsbD 2 = true ↔ st = .crcMismatch := by cases st <;> decide

/-- The bits of `err` after raising a status are those set before and that status's (R133). -/
theorem raise_err_getLsbD (s : State) (st : Status) (k : Nat) :
    (s.setErr (s.err ||| st.errMask)).err.getLsbD k = true ↔
      s.err.getLsbD k = true ∨ st.errMask.getLsbD k = true := by
  simp

/-- The zero-extended error bits as the sum of their weights (R116). -/
theorem err_setWidth_eq (e : BitVec 3) : e.setWidth 32 =
    (if e.getLsbD 0 = true then 1#32 else 0#32) ||| (if e.getLsbD 1 = true then 2#32 else 0#32) |||
      (if e.getLsbD 2 = true then 4#32 else 0#32) := by
  revert e
  decide

/-! ## What a record says of the registers -/

/-- A record describes the registers; the response delivered beside them has no part in it. -/
@[simp] theorem Record.describes_deliver (r : Record) (s : State) (st : Status) (rd : Word) :
    r.describes (s.deliver st rd) ↔ r.describes s := Iff.rfl

/-- A reported error joins the errors (R133). -/
theorem Record.mem_report {r : Record} {st e : Status} : e ∈ (r.report st).errors ↔ e ∈ r.errors ∨ st = e := by
  rw [report, List.mem_cons, or_comm, eq_comm]

/-- The reset values are described by the reset record (R150). -/
theorem Record.reset_describes (s : State) : Record.reset.describes s.resetRegisters :=
  ⟨rfl, rfl, rfl, by simp [Record.reset], by simp [Record.reset], by simp [Record.reset]⟩

/-- Raising a status reports it (R133). -/
theorem Record.describes.report {r : Record} {s : State} (h : r.describes s) (st : Status) :
    (r.report st).describes (s.setErr (s.err ||| st.errMask)) := by
  obtain ⟨hcrc, hcnt, htype, h0, h1, h2⟩ := h
  refine ⟨hcrc, hcnt, htype, ?_, ?_, ?_⟩
  · rw [raise_err_getLsbD, h0, errMask_getLsbD_zero, mem_report]
  · rw [raise_err_getLsbD, h1, errMask_getLsbD_one, mem_report]
  · rw [raise_err_getLsbD, h2, errMask_getLsbD_two, mem_report]

/-- Payload bytes join the fed bytes and the count (R91, R97). -/
theorem Record.describes.feed {r : Record} {s : State} (h : r.describes s) (bs : List Byte) :
    { r with fed := r.fed ++ bs, payloadLength := r.payloadLength + bs.length }.describes
      ((s.setCrc (crcSeq s.crc bs)).setCnt (s.cnt + BitVec.ofNat 32 bs.length)) := by
  obtain ⟨hcrc, hcnt, hrest⟩ := h
  refine ⟨?_, ?_, hrest⟩
  · simp [hcrc, crcSeq_append]
  · simp [hcnt, BitVec.ofNat_add]

/-- A loaded type is the record's type (R23). -/
theorem Record.describes.load {r : Record} {s : State} (h : r.describes s) (t : Word) :
    { r with type := t }.describes (s.setCtype t) := by
  obtain ⟨hcrc, hcnt, -, herr⟩ := h
  exact ⟨hcrc, hcnt, rfl, herr⟩

/-- The CRC value is the CRC of the fed bytes (R91). -/
theorem Record.describes.crcValue_eq {r : Record} {s : State} (h : r.describes s) : crcValue s.crc = crc32 r.fed :=
  congrArg crcValue h.1

/-! ## One command, one event, one step -/

/-- A legal command keeps the description and answers what the record-level machine answers. -/
theorem exec_describes (i : Instr) {r : Record} {s : State} (h : r.describes s) :
    ∃ t, exec i s = .next t ∧ (r.exec i).1.describes t ∧ t.output = some (r.exec i).2 := by
  have crc := h.crcValue_eq
  have ⟨hcrc, hcnt, htype, h0, h1, h2⟩ := h
  cases i with
  | crcInit => exact ⟨_, exec_crcInit s, ⟨rfl, rfl, htype, h0, h1, h2⟩, rfl⟩
  | crcByte b => exact ⟨_, exec_crcByte b s, h.feed [b], rfl⟩
  | crcWord w => exact ⟨_, exec_crcWord w s, h.feed (wordBytes w), rfl⟩
  | crcRead => exact ⟨_, exec_crcRead s, h, by simp [Record.exec, crc]⟩
  | crcCheck w =>
    by_cases hw : crc32 r.fed = w
    · exact ⟨_, exec_crcCheck_of_eq (crc.trans hw), by simpa [Record.exec, hw] using h, by simp [Record.exec, hw, crc]⟩
    · exact ⟨_, exec_crcCheck_of_ne (crc ▸ hw), by simpa [Record.exec, hw] using h.report .crcMismatch,
        by simp [Record.exec, hw, crc]⟩
  | typeLoad t => exact ⟨_, exec_typeLoad t s, h.load t, rfl⟩
  | typeLoadc t =>
    by_cases hv : validType t = true
    · exact ⟨_, exec_typeLoadc_of_valid s hv, by simpa [Record.exec, hv] using h.load t, by simp [Record.exec, hv]⟩
    · exact ⟨_, exec_typeLoadc_of_invalid s hv, by simpa [Record.exec, hv] using h.report .invalidType,
        by simp [Record.exec, hv]⟩
  | typeRead => exact ⟨_, exec_typeRead s, h, by simp [Record.exec, htype]⟩
  | typeFlags => exact ⟨_, exec_typeFlags s, h, by simp [Record.exec, htype]⟩
  | chunkStart t => exact ⟨_, exec_chunkStart t s, ⟨rfl, rfl, rfl, h0, h1, h2⟩, rfl⟩
  | cntRead => exact ⟨_, exec_cntRead s, h, by simp [Record.exec, hcnt]⟩
  | errRead => exact ⟨_, rfl, h, by simp only [State.deliver_output, err_setWidth_eq, h0, h1, h2, Record.exec]⟩
  | errClear =>
    refine ⟨_, exec_errClear s, ⟨hcrc, hcnt, htype, ?_, ?_, ?_⟩, rfl⟩ <;> simp [Record.exec]
  | sreset => exact ⟨_, exec_sreset s, Record.reset_describes s, rfl⟩
  | nop => exact ⟨_, exec_nop s, h, rfl⟩

/-- An event keeps the description and draws the responses of the record-level machine. -/
theorem take_describes (e : HostEvent) {r : Record} {s : State} (h : r.describes s) :
    ∃ t, take e s = .next t ∧ (r.take e).1.describes t ∧ t.output.toList = (r.take e).2 := by
  cases e with
  | reset => exact ⟨_, take_reset s, Record.reset_describes s, rfl⟩
  | command c =>
    cases hd : decode c with
    | legal i =>
      obtain ⟨t, ht, hdescribes, hout⟩ := exec_describes i h
      simp only [Record.take, hd]
      exact ⟨t, (take_legal hd s).trans ht, hdescribes, by rw [hout, Option.toList_some]⟩
    | illegal reason =>
      simp only [Record.take, hd]
      exact ⟨_, (take_illegal hd s).trans (raise_eq _ _ s), h.report .illegalCmd, rfl⟩

/-- Settles O59: a step takes the first event presented, which keeps the description by `take_describes`; with nothing
presented it changes no register (log 3). -/
theorem stepKeepsTheRecordDescription : Obligations.StepKeepsTheRecordDescription := by
  intro s t r h ht
  obtain ⟨hs, rfl⟩ | ⟨e, es, hs, he⟩ := step_cases ht
  · exact .inl ⟨hs, h, rfl⟩
  · obtain ⟨t', ht', hdescribes, hout⟩ := take_describes e (s := s.setInputs es) h
    obtain rfl := Host.Outcome.next.inj (he.symm.trans ht')
    exact .inr ⟨e, es, hs, hdescribes, hout⟩

/-- A run of any events keeps the description and shows the responses of the record-level machine. -/
theorem run_describes (es : List HostEvent) {r : Record} {s : State} (h : r.describes s) :
    ∃ t, runInputs (s.setInputs es) = .next t ∧ (r.run es).1.describes t ∧
      runResponses (s.setInputs es) = (r.run es).2 := by
  induction es generalizing r s with
  | nil => exact ⟨_, runInputs_nil rfl, h, runResponses_nil rfl⟩
  | cons e es ih =>
    obtain ⟨u, hu, hdescribes, hout⟩ := take_describes e h
    obtain ⟨t, ht, hfinal, hresponses⟩ := ih hdescribes
    exact ⟨t, (runInputs_take hu es).trans ht, hfinal, (runResponses_take hu es).trans (by rw [hout, hresponses]; rfl)⟩

/-- Settles O58: by `run_describes`, which is the induction over the events, and the reset values. -/
theorem blockRefinesTheRecordMachine : Obligations.BlockRefinesTheRecordMachine :=
  ⟨fun _ _ es h => run_describes es h, Record.reset_describes State.reset⟩

end Sys2Proof.Machine
end

section
/-! SUPPORT. The error bits are accounted for by the responses (10_state.md R25, 60_exceptions.md R130, R133), and
errors are precise (R135). -/

namespace Sys2Proof.Machine

/-- The accounting said once for all bits of `err`, by the bit each status sets. -/
theorem State.accounted_iff (s : State) (history : List Response) : s.accounted history ↔
    (∀ r ∈ history, r.lawful) ∧
      ∀ k, s.err.getLsbD k = true → ∃ r ∈ history, r.status.errMask.getLsbD k = true := by
  simp only [accounted, ← errMask_getLsbD_zero, ← errMask_getLsbD_one, ← errMask_getLsbD_two]
  refine and_congr_right fun _ => ⟨fun ⟨h0, h1, h2⟩ k hk => ?_, fun h => ⟨h 0, h 1, h 2⟩⟩
  have below : k < 3 := BitVec.lt_of_getLsbD hk
  interval_cases k
  · exact h0 hk
  · exact h1 hk
  · exact h2 hk

/-- A legal command answers lawfully: INVALID_TYPE comes with the flags of a type that is not valid (R79, R130). -/
theorem exec_lawful (i : Instr) (s : State) : (Response.mk (statusOf i s) (rdataOf i s)).lawful := by
  cases i with
  | crcCheck w => by_cases h : crcValue s.crc = w <;> simp [statusOf, checkStatus, h, Response.lawful]
  | typeLoadc t =>
    cases h : validType t with
    | true => simp [statusOf, h, Response.lawful]
    | false => simpa [statusOf, h, Response.lawful] using ⟨t, rfl, h⟩
  | _ => trivial

/-- A legal command answers lawfully, and every bit of `err` after it was set before or is its status's bit. -/
theorem exec_accounts (i : Instr) (s : State) :
    ∃ t r, exec i s = .next t ∧ t.output = some r ∧ r.lawful ∧
      ∀ k, t.err.getLsbD k = true → s.err.getLsbD k = true ∨ r.status.errMask.getLsbD k = true := by
  cases i with
  | errClear | sreset => exact ⟨_, _, rfl, rfl, trivial, by simp⟩
  | nop | crcInit | crcByte b | crcWord w | crcRead | crcCheck w | typeLoad t | typeLoadc t | typeRead | typeFlags
  | chunkStart t | cntRead | errRead =>
    obtain ⟨u, hexec, -, hkept⟩ := exec_raises _ s
    refine ⟨_, _, hexec, rfl, exec_lawful _ s, fun k hk => ?_⟩
    rw [← hkept (by simp [Instr.mnemonic]) (by simp [Instr.mnemonic])]
    exact (raise_err_getLsbD u _ k).mp hk

/-- Whatever the host presents: what it delivers is lawful, and every bit of `err` after it was set before or is the bit
of a status delivered. -/
theorem take_accounts (e : HostEvent) (s : State) :
    ∃ t, take e s = .next t ∧ (∀ r ∈ t.output.toList, r.lawful) ∧
      ∀ k, t.err.getLsbD k = true →
        s.err.getLsbD k = true ∨ ∃ r ∈ t.output.toList, r.status.errMask.getLsbD k = true := by
  cases e with
  | reset => exact ⟨_, take_reset s, by simp, by simp⟩
  | command c =>
    cases hd : decode c with
    | legal i =>
      obtain ⟨t, r, ht, hout, hlawful, hbits⟩ := exec_accounts i s
      exact ⟨t, (take_legal hd s).trans ht, by simpa [hout] using hlawful, by simpa [hout] using hbits⟩
    | illegal reason =>
      exact ⟨_, (take_illegal hd s).trans (raise_eq _ _ s), by simp [Response.lawful], fun k hk => by simpa using hk⟩

/-- Settles O40: bits set before have their responses in the history and a new one in what the step delivers
(`take_accounts`); with nothing presented nothing changes (log 3). -/
theorem stepKeepsErrAccounted : Obligations.StepKeepsErrAccounted := by
  intro s t history h ht
  obtain ⟨-, rfl⟩ | ⟨e, es, -, he⟩ := step_cases ht
  · rwa [State.silent_output, Option.toList_none, List.append_nil]
  · obtain ⟨t', ht', hlawful, hbits⟩ := take_accounts e (s.setInputs es)
    obtain rfl := Host.Outcome.next.inj (he.symm.trans ht')
    rw [State.accounted_iff] at h ⊢
    obtain ⟨hold, haccount⟩ := h
    refine ⟨List.forall_mem_append.mpr ⟨hold, hlawful⟩, fun k hk => ?_⟩
    obtain before | ⟨r, hr, hbit⟩ := hbits k hk
    · obtain ⟨r, hr, hbit⟩ := haccount k before
      exact ⟨r, List.mem_append_left _ hr, hbit⟩
    · exact ⟨r, List.mem_append_right _ hr, hbit⟩

/-- Settles O41: no bit is set and nothing was delivered. -/
theorem resetIsErrAccounted : Obligations.ResetIsErrAccounted :=
  (State.accounted_iff _ _).mpr ⟨by simp, by simp [State.reset]⟩

/-- Settles O38: a command with a non-OK status does nothing before it raises it (`exec_raises`, `step_illegal`). -/
theorem errorsArePrecise : Obligations.ErrorsArePrecise := by
  intro s c es
  cases hd : decode c with
  | legal i =>
    obtain ⟨u, hexec, herror, -⟩ := exec_raises i (s.setInputs es)
    refine ⟨_, _, (step_legal s es hd).trans hexec, rfl, fun hne => ?_⟩
    rw [herror hne]
    rfl
  | illegal r => exact ⟨_, _, step_illegal s es ⟨r, hd⟩, rfl, fun _ => rfl⟩

end Sys2Proof.Machine
end

section
/-! SUPPORT. Decoder and encoder undo each other (30_encoding.md R52, R53, R56, R57), and the words the host presents
(R50). -/

namespace Sys2Proof.Machine

/-- Settles O3: `decode_encode`. -/
theorem decodeOfEncode : Obligations.DecodeOfEncode := decode_encode

/-- Decoding and encoding keeps the operand bits the command's shape consumes and clears the others (R52, R57). -/
theorem withOperand_wdata_toNat (m : Mnemonic) (w : Word) :
    (m.withOperand w).wdata.toNat = w.toNat % 2 ^ m.shape.width := by
  cases m with
  | crcByte => simp [Mnemonic.withOperand, Instr.wdata, Mnemonic.shape, OperandShape.width]; omega
  | crcWord | crcCheck | typeLoad | typeLoadc | chunkStart => exact (Nat.mod_eq_of_lt w.isLt).symm
  | nop | crcInit | crcRead | typeRead | typeFlags | cntRead | errRead | errClear | sreset =>
    exact (Nat.mod_one _).symm

/-- How many operand bits each row of the opcode map consumes (R52, R53). -/
theorem shape_width_of_cmd (m : Mnemonic) : m.shape.width =
    if m.cmd = 0x02#8 then 8 else if m.cmd ∈ [0x03#8, 0x05#8, 0x06#8, 0x07#8, 0x0A#8] then 32 else 0 := by
  cases m <;> rfl

/-- Settles O4: the row of a legal command gives `cmd`, and `withOperand_wdata_toNat` the operand word at the width of
that row. -/
theorem encodeOfDecode : Obligations.EncodeOfDecode := by
  intro c i h
  obtain ⟨m, hcmd, rfl⟩ := exists_mnemonic_of_decode_legal h
  have operand := withOperand_wdata_toNat m c.wdata
  rw [shape_width_of_cmd] at operand
  rw [hcmd]
  refine ⟨congrArg Mnemonic.cmd (withOperand_mnemonic m _), fun hm => ?byte, fun hm => ?word, fun hm => ?none⟩
  all_goals apply BitVec.eq_of_toNat_eq
  case byte =>
    rw [if_pos hm] at operand
    exact operand.trans (Nat.and_two_pow_sub_one_eq_mod _ 8).symm
  case word =>
    have notByte : m.cmd ≠ 0x02#8 := by
      intro h
      simp [h] at hm
    rw [if_neg notByte, if_pos hm] at operand
    exact operand.trans (Nat.mod_eq_of_lt c.wdata.isLt)
  case none =>
    obtain ⟨notByte, notWord⟩ := not_or.mp (mt List.mem_cons.mpr hm)
    rw [if_neg notByte, if_neg notWord] at operand
    exact operand.trans (Nat.mod_one _)

/-- Settles O1: `decode_cmd` on each row of the table, and `decode_illegal_iff` beside it. -/
theorem decodeFollowsTheOpcodeMap : Obligations.DecodeFollowsTheOpcodeMap :=
  ⟨fun c hz => (decode_illegal_iff c).mpr (.inl hz), fun w =>
    ⟨decode_cmd .nop w, decode_cmd .crcInit w, decode_cmd .crcByte w, decode_cmd .crcWord w, decode_cmd .crcRead w,
      decode_cmd .crcCheck w, decode_cmd .typeLoad w, decode_cmd .typeLoadc w, decode_cmd .typeRead w,
      decode_cmd .typeFlags w, decode_cmd .chunkStart w, decode_cmd .cntRead w, decode_cmd .errRead w,
      decode_cmd .errClear w, decode_cmd .sreset w, (decode_illegal_iff ⟨0x0F#8, w⟩).mpr (.inr rfl)⟩⟩

/-- Settles O2: eight fixed words, evaluated. -/
theorem writtenOutTableWordsDecode : Obligations.WrittenOutTableWordsDecode := by
  unfold Obligations.WrittenOutTableWordsDecode
  decide

/-- Settles O5: a step takes the head of what is presented (`step_cons`), and the decoder's answer chooses the
effect. -/
theorem stepRunsTheDecodedCommand : Obligations.StepRunsTheDecodedCommand := by
  refine ⟨fun s c i es h => step_legal s es h, fun s c r es h => ?illegal, fun s h => ?idle⟩
  case illegal => exact (step_cons rfl).trans (take_illegal h _)
  case idle =>
    rw [step, takeInput_nil h]
    rfl

/-- Settles O6: the placed word stands at the head of what is presented, and the decoder reads it as the instruction. -/
theorem placedWordRunsNext : Obligations.PlacedWordRunsNext := by
  intro s nbits w i h
  have legal : decode (Command.ofTableWord nbits w) = .legal i := by
    cases hd : decode (Command.ofTableWord nbits w) with
    | legal j => simpa [decodeTableWord, hd, Decoded.toOption] using h
    | illegal r => simp [decodeTableWord, hd, Decoded.toOption] at h
  exact step_legal s s.inputs legal

end Sys2Proof.Machine
end

section
/-! SUPPORT. The assembler's check of a source command, and what it assembles to (30_encoding.md R57). -/

namespace Sys2Proof.Machine

/-- A literal that passes the check against a shape fits it; a character fits a byte, being ASCII (R57). -/
theorem Literal.value_lt_of_check {sh : OperandShape} {l : Literal} (h : l.check sh = none) :
    l.value < 2 ^ sh.width := by
  cases l with
  | number n => simpa [Literal.check] using h
  | quoted c0 c1 c2 c3 =>
    simp only [Literal.check] at h
    split at h
    · cases h
    · simpa using h
  | character c =>
    by_cases hsh : sh = .byte
    · have ascii : c.toNat < 128 := by simpa [Literal.check, hsh, Literal.isAscii] using h
      subst hsh
      exact ascii.trans (by decide)
    · simp [Literal.check, hsh] at h

/-- A source command that passes the check has an operand that fits its shape, or a shape without one (R57). -/
theorem SourceCommand.value_lt_of_check {c : SourceCommand} (h : c.check = none) :
    ∀ l, c.operand = some l → l.value < 2 ^ c.mnemonic.shape.width := by
  obtain ⟨m, operand⟩ := c
  rintro l rfl
  cases hsh : m.shape with
  | none => simp [SourceCommand.check, hsh] at h
  | byte | dataWord | checkWord | typeWord =>
    exact Literal.value_lt_of_check (by simpa [SourceCommand.check, hsh] using h)

/-- What passes the check is assembled with the operand's value on `wdata` (R57). -/
theorem assembleCommand_of_check {c : SourceCommand} (h : c.check = none) : assembleCommand c =
    some (c.mnemonic.withOperand (BitVec.ofNat 32 ((c.operand.map Literal.value).getD 0))) := by
  simp only [assembleCommand, h]

/-- The assembler refuses what the check refuses and nothing else (R57). -/
theorem assembleCommand_isSome_iff (c : SourceCommand) : (assembleCommand c).isSome = true ↔ c.check = none := by
  cases h : c.check <;> simp [assembleCommand, h]

/-- The value the assembler puts on `wdata` fits the shape: an operand that passes the check does, and without one the
value is 0. -/
theorem SourceCommand.operandValue_lt_of_check {c : SourceCommand} (h : c.check = none) :
    (c.operand.map Literal.value).getD 0 < 2 ^ c.mnemonic.shape.width := by
  cases hop : c.operand with
  | none => exact Nat.two_pow_pos _
  | some l => exact value_lt_of_check h l hop

/-- A number passes the check against a shape exactly where it fits (R57). -/
theorem Literal.check_number_iff (sh : OperandShape) (n : Nat) :
    (Literal.number n).check sh = none ↔ n < 2 ^ sh.width :=
  (ite_eq_left_iff (p := n < 2 ^ sh.width)).trans (by simp)

/-- A number passes the check of a command that takes an operand exactly where it fits (R57). -/
theorem check_number_iff {m : Mnemonic} (n : Nat) (hm : m.shape ≠ .none) :
    (⟨m, some (.number n)⟩ : SourceCommand).check = none ↔ n < 2 ^ m.shape.width := by
  cases hsh : m.shape with
  | none => exact absurd hsh hm
  | byte | dataWord | checkWord | typeWord =>
    simp only [SourceCommand.check, hsh]
    exact Literal.check_number_iff _ n

/-- Settles O51: the assembler answers what the check accepts, a value that fits comes back from the encoder unchanged
(`withOperand_wdata_toNat`), and the check refuses a misplaced or a missing operand. -/
theorem assemblerAcceptsWhatFits : Obligations.AssemblerAcceptsWhatFits := by
  refine ⟨fun c h => ?accepted, fun m l hm => ?unexpected, fun m hm => ?missing, fun m n hm => ?number⟩
  case accepted =>
    have fits := SourceCommand.operandValue_lt_of_check h
    have atMostWord : 2 ^ c.mnemonic.shape.width ≤ 2 ^ 32 :=
      Nat.pow_le_pow_right (by decide) (by cases c.mnemonic <;> decide)
    refine ⟨_, assembleCommand_of_check h, ?_, SourceCommand.value_lt_of_check h⟩
    rw [encode, withOperand_mnemonic, Command.mk.injEq]
    refine ⟨rfl, BitVec.eq_of_toNat_eq ?_⟩
    rw [withOperand_wdata_toNat, BitVec.toNat_ofNat, Nat.mod_eq_of_lt (fits.trans_le atMostWord), Nat.mod_eq_of_lt fits]
  case unexpected => simp [assembleCommand, SourceCommand.check, hm]
  case missing =>
    cases hsh : m.shape with
    | none => exact absurd hsh hm
    | byte | dataWord | checkWord | typeWord => simp [assembleCommand, SourceCommand.check, hsh]
  case number => exact (assembleCommand_isSome_iff _).trans (check_number_iff n hm)

end Sys2Proof.Machine
end

section
/-! SUPPORT. What each command reads and writes (10_state.md R29), and that a step reads the registers and the event
alone (R27, 60_exceptions.md R142). -/

namespace Sys2Proof.Machine

/-- Settles O44: each row's effect against its row of the access summary. -/
theorem commandsWriteOnlyTheirRegisters : Obligations.CommandsWriteOnlyTheirRegisters := by
  intro i s
  cases i with
  | crcCheck w => exact ⟨_, exec_crcCheck w s, rfl, by simp [accessOf, Instr.mnemonic]⟩
  | typeLoadc t =>
    by_cases hv : validType t = true
    · exact ⟨_, exec_typeLoadc_of_valid s hv, rfl, by simp [accessOf, Instr.mnemonic]⟩
    · exact ⟨_, exec_typeLoadc_of_invalid s hv, rfl, by simp [accessOf, Instr.mnemonic]⟩
  | nop | crcInit | crcByte b | crcWord w | crcRead | typeLoad t | typeRead | typeFlags | chunkStart t | cntRead
  | errRead | errClear | sreset => exact ⟨_, rfl, rfl, by simp [accessOf, Instr.mnemonic]⟩

/-- A command that does not read `crc` goes the same way whatever it holds. -/
theorem exec_ignores_crc {i : Instr} (s : State) (h : (accessOf i.mnemonic).rCrc = false) (v : Word) :
    ∃ t u, exec i s = .next t ∧ exec i { s with crc := v } = .next u ∧
      u = { t with crc := if (accessOf i.mnemonic).wCrc then t.crc else v } := by
  cases i with
  | crcByte b | crcWord w | crcRead | crcCheck w => cases h
  | typeLoadc t =>
    by_cases hv : validType t = true
    · exact ⟨_, _, exec_typeLoadc_of_valid _ hv, exec_typeLoadc_of_valid _ hv, rfl⟩
    · exact ⟨_, _, exec_typeLoadc_of_invalid _ hv, exec_typeLoadc_of_invalid _ hv, rfl⟩
  | nop | crcInit | typeLoad t | typeRead | typeFlags | chunkStart t | cntRead | errRead | errClear | sreset =>
    exact ⟨_, _, rfl, rfl, rfl⟩

/-- A command that does not read `cnt` goes the same way whatever it holds. -/
theorem exec_ignores_cnt {i : Instr} (s : State) (h : (accessOf i.mnemonic).rCnt = false) (v : Word) :
    ∃ t u, exec i s = .next t ∧ exec i { s with cnt := v } = .next u ∧
      u = { t with cnt := if (accessOf i.mnemonic).wCnt then t.cnt else v } := by
  cases i with
  | crcByte b | crcWord w | cntRead => cases h
  | crcCheck w => exact ⟨_, _, exec_crcCheck w _, exec_crcCheck w _, rfl⟩
  | typeLoadc t =>
    by_cases hv : validType t = true
    · exact ⟨_, _, exec_typeLoadc_of_valid _ hv, exec_typeLoadc_of_valid _ hv, rfl⟩
    · exact ⟨_, _, exec_typeLoadc_of_invalid _ hv, exec_typeLoadc_of_invalid _ hv, rfl⟩
  | nop | crcInit | crcRead | typeLoad t | typeRead | typeFlags | chunkStart t | errRead | errClear | sreset =>
    exact ⟨_, _, rfl, rfl, rfl⟩

/-- A command that does not read `ctype` goes the same way whatever it holds, and a refused TYPE_LOADC keeps it as a
command that writes none does. -/
theorem exec_ignores_ctype {i : Instr} (s : State) (h : (accessOf i.mnemonic).rCtype = false) (v : Word) :
    ∃ t u, exec i s = .next t ∧ exec i { s with ctype := v } = .next u ∧
      u = { t with ctype := u.ctype } ∧ (u.ctype = t.ctype ∨ (u.ctype = v ∧ t.ctype = s.ctype)) ∧
      ((accessOf i.mnemonic).wCtype = false → u.ctype = v) := by
  cases i with
  | typeRead | typeFlags => cases h
  | crcCheck w => exact ⟨_, _, exec_crcCheck w _, exec_crcCheck w _, rfl, .inr ⟨rfl, rfl⟩, fun _ => rfl⟩
  | typeLoadc t =>
    by_cases hv : validType t = true
    · exact ⟨_, _, exec_typeLoadc_of_valid _ hv, exec_typeLoadc_of_valid _ hv, rfl, .inl rfl,
        by simp [accessOf, Instr.mnemonic]⟩
    · exact ⟨_, _, exec_typeLoadc_of_invalid _ hv, exec_typeLoadc_of_invalid _ hv, rfl, .inr ⟨rfl, rfl⟩,
        fun _ => rfl⟩
  | typeLoad t | chunkStart t | sreset => exact ⟨_, _, rfl, rfl, rfl, .inl rfl, by simp [accessOf, Instr.mnemonic]⟩
  | nop | crcInit | crcByte b | crcWord w | crcRead | cntRead | errRead | errClear =>
    exact ⟨_, _, rfl, rfl, rfl, .inr ⟨rfl, rfl⟩, fun _ => rfl⟩

/-- Every command but ERR_READ goes the same way whatever `err` holds. -/
theorem exec_ignores_err {i : Instr} (s : State) (h : (accessOf i.mnemonic).rErr = false) (v : BitVec 3) :
    ∃ t u, exec i s = .next t ∧ exec i { s with err := v } = .next u ∧ u = { t with err := u.err } := by
  obtain ⟨t, u, ht, hu, ⟨e, o, rfl⟩, hout⟩ := exec_sameButErr i (s := s) ⟨v, s.output, rfl⟩
  have notRead : i ≠ .errRead := by
    rintro rfl
    cases h
  obtain rfl : o = t.output := hout notRead
  exact ⟨t, _, ht, hu, rfl⟩

/-- Settles O45: one lemma for each register. -/
theorem commandsReadOnlyTheirRegisters : Obligations.CommandsReadOnlyTheirRegisters :=
  fun _ s => ⟨exec_ignores_crc s, exec_ignores_cnt s, exec_ignores_ctype s, exec_ignores_err s⟩

/-- Settles O46: `take_port` takes the event with either port beside the same registers. -/
theorem stepDependsOnRegistersAndCommandAlone : Obligations.StepDependsOnRegistersAndCommandAlone := by
  intro s s' e es es' h
  obtain ⟨t, ht, ht'⟩ := take_port e (s.setInputs es) ⟨es', s'.output⟩
  have sameRegisters : { s.setInputs es with toPort := ⟨es', s'.output⟩ } = s'.setInputs es' :=
    congrArg (fun registers => State.mk registers ⟨es', s'.output⟩) h
  rw [sameRegisters] at ht'
  exact ⟨t, _, (step_cons rfl).trans ht, (step_cons rfl).trans ht', rfl, inputs_of_take ht, rfl, rfl⟩

end Sys2Proof.Machine
end

section
/-! SUPPORT. The byte step in table form (41_crc.md R90, R93): a turn of the loop is linear, and on a word whose low
bits are 0 it only shifts, so the high bits of the remainder pass a byte step unchanged. -/

namespace Sys2Proof.Machine

/-- A turn is linear: it is a sum of terms that each are (R90). -/
theorem crcShift_xor (x y : Word) : crcShift (x ^^^ y) = crcShift x ^^^ crcShift y := by
  have selects : ∀ p q : Bool, (if (p ^^ q) = true then crcPoly else 0#32) =
      (if p = true then crcPoly else 0#32) ^^^ (if q = true then crcPoly else 0#32) := by decide
  simp only [crcShift_eq_xor, BitVec.getLsbD_xor, BitVec.ushiftRight_xor_distrib, selects]
  ac_rfl

theorem crcShifts_xor (n : Nat) (x y : Word) : crcShifts n (x ^^^ y) = crcShifts n x ^^^ crcShifts n y := by
  induction n generalizing x y with
  | zero => rfl
  | succ n ih => simp only [crcShifts, crcShift_xor, ih]

/-- Turns that consume zero bits shift them out and do nothing else. -/
theorem crcShifts_of_low_bits_zero (n : Nat) (x : Word) (h : ∀ k, k < n → x.getLsbD k = false) :
    crcShifts n x = x >>> n := by
  induction n generalizing x with
  | zero => exact (BitVec.ushiftRight_zero x).symm
  | succ n ih =>
    have turn : crcShift x = x >>> 1 := if_neg (ne_true_of_eq_false (h 0 n.succ_pos))
    have later : ∀ k, k < n → (x >>> 1).getLsbD k = false := fun k hk => by
      rw [BitVec.getLsbD_ushiftRight]
      exact h (1 + k) (by omega)
    rw [crcShifts, turn, ih _ later, ← BitVec.shiftRight_add, Nat.add_comm]

/-- The index of the table is the low byte of the word (R93). -/
theorem and_low_byte (x : Word) : (x &&& 0xFF#32).setWidth 8 = x.setWidth 8 := by
  have ones : (0xFF#32).setWidth 8 = BitVec.allOnes 8 := rfl
  rw [BitVec.setWidth_and, ones, BitVec.and_allOnes]

/-- A remainder with a byte added is its low byte and the remainder's high bits: the byte has none. -/
theorem xor_byte_eq_low_xor_high (c : Word) (b : Byte) :
    c ^^^ b.setWidth 32 = ((c ^^^ b.setWidth 32).setWidth 8).setWidth 32 ^^^ ((c >>> 8) <<< 8) := by
  refine BitVec.eq_of_getLsbD_eq fun k hk => ?_
  by_cases low : k < 8
  · simp [low, hk]
  · have above : 8 ≤ k := Nat.le_of_not_lt low
    simp [low, hk, above]

/-- The byte step equals its table form: the low byte goes through the table, the rest is shifted (R93). -/
theorem crcByte_eq_crcByteByTable (c : Word) (b : Byte) : crcByte c b = crcByteByTable c b := by
  have high : crcShifts 8 ((c >>> 8) <<< 8) = c >>> 8 := by
    rw [crcShifts_of_low_bits_zero 8 _ fun k hk => by simp [hk]]
    refine BitVec.eq_of_getLsbD_eq fun k hk => ?_
    simpa using fun h => BitVec.lt_of_getLsbD h
  calc crcByte c b
    _ = crcShifts 8 (((c ^^^ b.setWidth 32).setWidth 8).setWidth 32 ^^^ ((c >>> 8) <<< 8)) :=
      congrArg (crcShifts 8) (xor_byte_eq_low_xor_high c b)
    _ = crcShifts 8 (((c ^^^ b.setWidth 32).setWidth 8).setWidth 32) ^^^ (c >>> 8) := by rw [crcShifts_xor, high]
    _ = crcByteByTable c b := by rw [crcByteByTable, crcTable, crcByte, and_low_byte, BitVec.zero_xor]

/-- Settles O31: `crcByte_eq_crcByteByTable`, and the nine entries evaluated. -/
theorem byteStepHasATableForm : Obligations.ByteStepHasATableForm := by
  refine ⟨crcByte_eq_crcByteByTable, ?_⟩
  decide +kernel

end Sys2Proof.Machine
end

section
/-! SUPPORT. Whole runs: every run completes (60_exceptions.md R141), reads have no side effect (20_memory.md R47), a
type is kept until the next one is written (10_state.md R23), and boot (70_reset_and_hazards.md R154). -/

namespace Sys2Proof.Machine

/-! ## Every run completes -/

/-- A command draws one response and a reset none (R54, R150). -/
theorem take_output_length {e : HostEvent} {s t : State} (h : take e s = .next t) :
    t.output.toList.length = if e = .reset then 0 else 1 := by
  cases e with
  | reset =>
    obtain rfl := Host.Outcome.next.inj h
    rfl
  | command c =>
    cases hd : decode c with
    | legal i =>
      obtain ⟨t', r, ht', -, hout⟩ := exec_shape i s
      obtain rfl := Host.Outcome.next.inj (h.symm.trans ((take_legal hd s).trans ht'))
      simp [hout]
    | illegal reason =>
      obtain rfl := Host.Outcome.next.inj (h.symm.trans ((take_illegal hd s).trans (raise_eq _ _ s)))
      rfl

/-- Any events run to their end, with one response for each command (R141). -/
theorem run_completes (s : State) (es : List HostEvent) :
    ∃ t, runInputs (s.setInputs es) = .next t ∧ t.inputs = [] ∧
      (runResponses (s.setInputs es)).length = es.countP (fun e => e != .reset) := by
  induction es generalizing s with
  | nil => exact ⟨_, runInputs_nil rfl, rfl, by rw [runResponses_nil rfl]; rfl⟩
  | cons e es ih =>
    obtain ⟨u, hu, -⟩ := take_next e s
    obtain ⟨t, ht, hin, hlength⟩ := ih u
    refine ⟨t, (runInputs_take hu es).trans ht, hin, ?_⟩
    rw [runResponses_take hu, List.length_append, hlength, take_output_length hu, List.countP_cons, Nat.add_comm]
    by_cases he : e = .reset <;> simp [he]

/-- Settles O43: `run_completes`, by induction on the events. -/
theorem everyRunCompletes : Obligations.EveryRunCompletes := run_completes

/-! ## Reads -/

/-- A read command only delivers its result (R47). -/
theorem exec_read {i : Instr} (h : i ∈ [Instr.nop, .crcRead, .typeRead, .typeFlags, .cntRead, .errRead]) (s : State) :
    exec i s = .next (s.deliver .ok (rdataOf i s)) := by
  simp only [List.mem_cons, List.not_mem_nil, or_false] at h
  obtain rfl | rfl | rfl | rfl | rfl | rfl := h <;> rfl

/-- A result is read from the registers, not from an earlier response (R27). -/
theorem rdataOf_deliver (i : Instr) (s : State) (st : Status) (rd : Word) :
    rdataOf i (s.deliver st rd) = rdataOf i s := by
  cases i <;> rfl

/-- Settles O47: the first read or check leads to a state that the same command leads back to (`reaches_replicate`). -/
theorem readCommandsHaveNoSideEffect : Obligations.ReadCommandsHaveNoSideEffect := by
  refine ⟨fun s i hi => ⟨⟨.ok, rdataOf i s⟩, fun n => ?read⟩, fun s w => ?check⟩
  case read =>
    cases n with
    | zero => exact ⟨_, runInputs_nil rfl, rfl, runResponses_nil rfl⟩
    | succ n =>
      have again : exec i (s.deliver .ok (rdataOf i s)) = .next (s.deliver .ok (rdataOf i s)) := by
        rw [exec_read hi, rdataOf_deliver]
        rfl
      have run := Reaches.cons (exec_read hi s) rfl (reaches_replicate again rfl n)
      exact ⟨_, run.runInputs_eq, rfl, run.runResponses_eq⟩
  case check =>
    refine ⟨⟨checkStatus s.crc w, crcValue s.crc⟩, s.err ||| (checkStatus s.crc w).errMask, fun n => ?_⟩
    have again := exec_crcCheck w
      ((s.setErr (s.err ||| (checkStatus s.crc w).errMask)).deliver (checkStatus s.crc w) (crcValue s.crc))
    simp only [State.deliver_crc, State.setErr_crc, State.deliver_err, State.setErr_err, BitVec.or_assoc,
      BitVec.or_self] at again
    have run := Reaches.cons (exec_crcCheck w s) rfl (reaches_replicate again rfl n)
    exact ⟨_, run.runInputs_eq, rfl, run.runResponses_eq⟩

/-! ## The type register -/

/-- Through commands that write no type, the type register keeps its word (R23, R29). -/
theorem reaches_keeps_ctype (s : State) {is : List Instr} (h : ∀ i ∈ is, (accessOf i.mnemonic).wCtype = false) :
    ∃ t rs, Reaches s is t rs ∧ t.ctype = s.ctype := by
  refine reaches_keeps (P := fun t => t.ctype = s.ctype) (fun i hi t ht => ?_) rfl
  obtain ⟨u, hu, -, -, -, hctype, -⟩ := commandsWriteOnlyTheirRegisters i t
  exact ⟨u, hu, (hctype (h i hi)).trans ht⟩

/-- The commands that write a type are those four (R29). -/
theorem wCtype_eq_false {m : Mnemonic} (h : m ∉ [.typeLoad, .typeLoadc, .chunkStart, .sreset]) :
    (accessOf m).wCtype = false := by
  cases m with
  | typeLoad | typeLoadc | chunkStart | sreset => simp at h
  | _ => rfl

/-- Settles O29: TYPE_LOAD and CHUNK_START put the word in `ctype`, where TYPE_READ finds it by
`reaches_keeps_ctype`. -/
theorem typeReadBackIsExact : Obligations.TypeReadBackIsExact := by
  intro s t load is hload his
  have loads : ∃ u r, exec load s = .next u ∧ u.output = some r ∧ u.ctype = t := by
    obtain rfl | rfl := hload
    · exact ⟨_, _, exec_typeLoad t s, rfl, rfl⟩
    · exact ⟨_, _, exec_chunkStart t s, rfl, rfl⟩
  obtain ⟨u, r, hu, hr, htype⟩ := loads
  obtain ⟨v, rs, hv, hkept⟩ := reaches_keeps_ctype u fun i hi => wCtype_eq_false (his i hi)
  have run := (Reaches.cons hu hr hv).append (.single (exec_typeRead v) rfl)
  exact ⟨_, run.runInputs_eq, by simp [hkept, htype]⟩

/-! ## Reset and boot -/

/-- Settles O9: by either route ERR_READ runs on the reset registers. -/
theorem bootConfirmsErrClear : Obligations.BootConfirmsErrClear := by
  intro s bySreset
  cases bySreset with
  | true => exact ⟨_, (runInputs_pair (exec_sreset s)).trans (exec_errRead _), rfl, by simp⟩
  | false => exact ⟨_, (runInputs_reset_then s .errRead).trans (exec_errRead _), rfl, by simp⟩

/-- Settles O10: the reset values are those of State.reset, and the sentinel's flags are `flags_sentinel`. -/
theorem resetStateHoldsTheSentinel : Obligations.ResetStateHoldsTheSentinel :=
  ⟨rfl, rfl, rfl, rfl, rfl, flags_sentinel⟩

end Sys2Proof.Machine
end

section
/-! SUPPORT. Streams and records (20_memory.md R44, 41_crc.md R101, R102, R104): what feeding commands do to the
registers, and a chunk generated, continued and verified. -/

namespace Sys2Proof.Machine

/-! ## Feeding -/

/-- The registers after feeding these bytes (R91, R97). -/
def Registers.fed (r : Registers) (bs : List Byte) : Registers :=
  { r with crc := crcSeq r.crc bs, cnt := r.cnt + BitVec.ofNat 32 bs.length }

@[simp] theorem Registers.fed_crc (r : Registers) (bs : List Byte) : (r.fed bs).crc = crcSeq r.crc bs := rfl
@[simp] theorem Registers.fed_cnt (r : Registers) (bs : List Byte) :
    (r.fed bs).cnt = r.cnt + BitVec.ofNat 32 bs.length := rfl
@[simp] theorem Registers.fed_ctype (r : Registers) (bs : List Byte) : (r.fed bs).ctype = r.ctype := rfl
@[simp] theorem Registers.fed_err (r : Registers) (bs : List Byte) : (r.fed bs).err = r.err := rfl

theorem Registers.fed_nil (r : Registers) : r.fed [] = r := by simp [fed]

/-- Bytes fed after bytes are fed as their concatenation. -/
theorem Registers.fed_append (r : Registers) (p q : List Byte) : r.fed (p ++ q) = (r.fed p).fed q := by
  simp [fed, crcSeq_append, BitVec.ofNat_add, BitVec.add_assoc]

/-- CRC_BYTE and CRC_WORD feed their bytes and answer (OK, 0) (R95, R96). -/
theorem exec_feeding {i : Instr} (s : State) (h : i.mnemonic ∈ [.crcByte, .crcWord]) :
    ∃ t, exec i s = .next t ∧ t.output = some ⟨.ok, 0#32⟩ ∧ t.toRegisters = s.toRegisters.fed (payloadOf i) := by
  cases i with
  | crcByte b => exact ⟨_, exec_crcByte b s, rfl, rfl⟩
  | crcWord w => exact ⟨_, exec_crcWord w s, rfl, rfl⟩
  | _ => simp [Instr.mnemonic] at h

/-- Feeding commands feed the bytes they carry, however these are split among them (R44). -/
theorem reaches_feeding (s : State) {is : List Instr} (h : ∀ i ∈ is, i.mnemonic ∈ [.crcByte, .crcWord]) :
    ∃ t, Reaches s is t (List.replicate is.length ⟨.ok, 0#32⟩) ∧
      t.toRegisters = s.toRegisters.fed (is.flatMap payloadOf) := by
  induction is generalizing s with
  | nil => exact ⟨s, .nil s, (Registers.fed_nil _).symm⟩
  | cons i is ih =>
    obtain ⟨hi, his⟩ := List.forall_mem_cons.mp h
    obtain ⟨u, hu, hout, hregisters⟩ := exec_feeding s hi
    obtain ⟨t, ht, hfinal⟩ := ih u his
    exact ⟨t, .cons hu hout ht, by rw [hfinal, hregisters, List.flatMap_cons, Registers.fed_append]⟩

/-- Settles O49: by `reaches_feeding` the registers depend on the bytes alone. -/
theorem splitDoesNotMatter : Obligations.SplitDoesNotMatter := by
  intro s is js h hbytes
  obtain ⟨his, hjs⟩ := List.forall_mem_append.mp h
  obtain ⟨t, ht, htregisters⟩ := reaches_feeding s his
  obtain ⟨u, hu, huregisters⟩ := reaches_feeding s hjs
  refine ⟨_, _, ht.runInputs_eq, hu.runInputs_eq, ?_⟩
  simp only [State.setInputs_toRegisters, htregisters, huregisters, hbytes]

/-- FEED is made of feeding commands (R58). -/
theorem feed_feeding (bs : List Byte) : ∀ i ∈ feed bs, i.mnemonic ∈ [.crcByte, .crcWord] := by
  induction bs using feed_induction with
  | short bs h => simp [feed_of_length_lt h, Instr.mnemonic]
  | four b0 b1 b2 b3 bs ih => exact List.forall_mem_cons.mpr ⟨by simp [Instr.mnemonic], ih⟩

/-- FEED feeds its bytes, with (OK, 0) for each of its commands. -/
theorem reaches_feed (s : State) (bs : List Byte) :
    ∃ t, Reaches s (feed bs) t (List.replicate (feed bs).length ⟨.ok, 0#32⟩) ∧
      t.toRegisters = s.toRegisters.fed bs := by
  simpa only [feed_payload] using reaches_feeding s (feed_feeding bs)

/-- Settles O52: `reaches_feed`; CRC_READ then finds the remainder of the bytes fed from the initial one. -/
theorem feedFeedsItsBytes : Obligations.FeedFeedsItsBytes := by
  refine ⟨fun s bs => ?feed, fun bs => ?crc⟩
  case feed =>
    obtain ⟨t, ht, hregisters⟩ := reaches_feed s bs
    exact ⟨_, ht.runInputs_eq, hregisters, ht.runResponses_eq⟩
  case crc =>
    obtain ⟨t, ht, hregisters⟩ := reaches_feed State.reset bs
    have run := ht.append (.single (exec_crcRead t) rfl)
    exact ⟨_, run.runInputs_eq, by simp [hregisters, crc32, reset_crc]⟩

/-! ## Chunks -/

/-- The registers after a chunk's commands: type and payload in the CRC, the payload counted (R92, R97, R100). -/
def Registers.ofChunk (t : Word) (p : List Byte) (err : BitVec 3) : Registers :=
  ⟨crcSeq crcInit (wordBytes t ++ p), BitVec.ofNat 32 p.length, t, err⟩

@[simp] theorem Registers.ofChunk_crcValue (t : Word) (p : List Byte) (err : BitVec 3) :
    crcValue (Registers.ofChunk t p err).crc = chunkCrc t p := rfl
@[simp] theorem Registers.ofChunk_cnt (t : Word) (p : List Byte) (err : BitVec 3) :
    (Registers.ofChunk t p err).cnt = BitVec.ofNat 32 p.length := rfl
@[simp] theorem Registers.ofChunk_ctype (t : Word) (p : List Byte) (err : BitVec 3) :
    (Registers.ofChunk t p err).ctype = t := rfl
@[simp] theorem Registers.ofChunk_err (t : Word) (p : List Byte) (err : BitVec 3) :
    (Registers.ofChunk t p err).err = err := rfl

/-- More bytes fed into a chunk's CRC make it the chunk of the concatenated payload (R156). -/
theorem Registers.ofChunk_fed (t : Word) (p q : List Byte) (err : BitVec 3) :
    (Registers.ofChunk t p err).fed q = .ofChunk t (p ++ q) err := by
  simp [fed, ofChunk, crcSeq_append, BitVec.ofNat_add]

/-- The responses to a chunk's commands: the flags, and (OK, 0) for each feeding command (R100, R101). -/
def chunkResponses (t : Word) (p : List Byte) : List Response :=
  ⟨.ok, flags t⟩ :: List.replicate (feed p).length ⟨.ok, 0#32⟩

/-- A chunk's commands give its registers from any state, and change `err` not at all (R101). -/
theorem reaches_chunk (s : State) (t : Word) (p : List Byte) :
    ∃ u, Reaches s (chunk t p) u (chunkResponses t p) ∧ u.toRegisters = .ofChunk t p s.err := by
  obtain ⟨u, hu, hregisters⟩ := reaches_feed _ p
  refine ⟨u, .cons (exec_chunkStart t s) rfl hu, hregisters.trans ?_⟩
  exact Registers.ofChunk_fed t [] p s.err

/-- Settles O54: the further bytes continue the chunk (`Registers.ofChunk_fed`). -/
theorem unseparatedChunksConcatenate : Obligations.UnseparatedChunksConcatenate := by
  intro s t p q
  obtain ⟨u, hu, huregisters⟩ := reaches_chunk s t p
  obtain ⟨v, hv, hvregisters⟩ := reaches_feed u q
  rw [huregisters, Registers.ofChunk_fed] at hvregisters
  have run := (hu.append hv).append (.single (exec_crcRead v) rfl)
  refine ⟨_, run.runInputs_eq, by simp [hvregisters], ?statuses, by simp [hvregisters]⟩
  case statuses =>
    show ∀ r ∈ runResponses (s.setInputs _), r.status = .ok
    rw [run.runResponses_eq]
    simp +contextual [chunkResponses, or_imp, List.mem_replicate]

/-- Settles O55: CRC_READ and CNT_READ find the registers of `reaches_chunk`. -/
theorem generationAnswersCrcAndLength : Obligations.GenerationAnswersCrcAndLength := by
  intro s t p
  obtain ⟨u, hu, hregisters⟩ := reaches_chunk s t p
  have run := hu.append (.cons (exec_crcRead u) rfl (.single (exec_cntRead _) rfl))
  refine ⟨_, run.runInputs_eq, run.runResponses_eq.trans ?_, by simp [hregisters], by simp [hregisters]⟩
  simp [hregisters, chunkResponses]

/-- The verdict reads the first response for the type and the last for the CRC (R102). -/
theorem verdict_chunkResponses (t : Word) (p : List Byte) (r : Response) :
    verdict (chunkResponses t p ++ [r]) = some (if validType t = false then .invalidChunkType
      else if r.status = .crcMismatch then .crcMismatch else .verified r.rdata) := by
  have first : (chunkResponses t p ++ [r]).head? = some ⟨.ok, flags t⟩ := rfl
  have last : (chunkResponses t p ++ [r]).getLast? = some r := List.getLast?_concat
  simp only [verdict, first, last, flags_valid_bit]
  cases validType t <;> simp [apply_ite]

/-- Settles O56: CRC_CHECK compares the chunk's CRC with the stored one, and the verdict reads its response. -/
theorem verificationVerdict : Obligations.VerificationVerdict := by
  intro s t p stored
  obtain ⟨u, hu, hregisters⟩ := reaches_chunk s t p
  have run := hu.append (.single (exec_crcCheck stored u) rfl)
  refine ⟨_, run.runInputs_eq, (congrArg verdict run.runResponses_eq).trans ?_⟩
  rw [verdict_chunkResponses]
  by_cases hcrc : chunkCrc t p = stored <;> simp [hregisters, checkStatus, hcrc]

/-- Settles O57: both runs end with the registers of the same chunk (`reaches_chunk`), so CRC_CHECK finds the CRC that
CRC_READ answered and raises nothing. -/
theorem generatedChunkVerifies : Obligations.GeneratedChunkVerifies := by
  intro s s' t p
  obtain ⟨u, hu, hregisters⟩ := reaches_chunk s t p
  obtain ⟨u', hu', hregisters'⟩ := reaches_chunk s' t p
  have found : crcValue u'.crc = chunkCrc t p := by simp [hregisters']
  have generated := (hu.append (.single (exec_crcRead u) rfl)).append (.single (exec_cntRead _) rfl)
  have verified := (hu'.append (.single (exec_crcCheck_of_eq found) rfl)).append (.single (exec_cntRead _) rfl)
  rw [List.append_assoc] at generated
  refine ⟨_, chunkCrc t p, BitVec.ofNat 32 p.length, _, generated.runInputs_eq,
    (congrArg (·.reverse.take 2) generated.runResponses_eq).trans ?_, verified.runInputs_eq,
    (congrArg (·.reverse.take 2) verified.runResponses_eq).trans ?_, by simp [hregisters']⟩
  · simp [hregisters]
  · simp [hregisters']

/-- A command that keeps the chunk starts no new CRC and writes no type (R156, R157). -/
theorem keepsChunk_iff (i : Instr) : keepsChunk i = true ↔
    i.mnemonic ∉ [.crcInit, .chunkStart, .sreset] ∧ (accessOf i.mnemonic).wCtype = false := by
  cases i <;> simp [keepsChunk, Instr.mnemonic, accessOf]

/-- Settles O53: the commands take their payload into the CRC and the counter (`runInputs_feeds_payload`) and keep the
type (`reaches_keeps_ctype`). -/
theorem chunkSurvivesInterleavedReads : Obligations.ChunkSurvivesInterleavedReads := by
  intro s t is his
  have kept := fun i hi => (keepsChunk_iff i).mp (his i hi)
  have starts : ∃ u, exec (.chunkStart t) s = .next u ∧ u.crc = crcSeq crcInit (wordBytes t) ∧ u.cnt = 0#32 ∧
      u.ctype = t := ⟨_, exec_chunkStart t s, rfl, rfl, rfl⟩
  obtain ⟨u, hu, hcrc, hcnt, htype⟩ := starts
  obtain ⟨v, rs, hv, hvtype⟩ := reaches_keeps_ctype u fun i hi => (kept i hi).2
  obtain ⟨w, hw, hwcrc, hwcnt⟩ := runInputs_feeds_payload u is [] fun i hi => (kept i hi).1
  rw [List.append_nil, hv.runInputs_eq, runInputs_nil (s := w.setInputs (presented [])) rfl] at hw
  have same : v.setInputs [] = w.setInputs [] := Host.Outcome.next.inj hw
  have sameRegisters : v.toRegisters = w.toRegisters := by
    simpa using congrArg State.toRegisters same
  refine ⟨_, (runInputs_exec hu is).trans hv.runInputs_eq, hvtype.trans htype, ?crc, ?cnt⟩
  case crc => simp [sameRegisters, hwcrc, hcrc, chunkCrc, crc32, crcSeq_append]
  case cnt => simp [sameRegisters, hwcnt, hcnt]

/-- Settles O60: CRC_WORD feeds the type as CHUNK_START does, and counts its four bytes. -/
theorem chunkStartIsInitWordAndLoad : Obligations.ChunkStartIsInitWordAndLoad := by
  intro t s
  have run := Reaches.cons (exec_crcInit s) rfl
    (.cons (exec_crcWord t _) rfl (.single (exec_typeLoad t _) rfl))
  exact ⟨_, _, exec_chunkStart t s, run.runInputs_eq, by simp⟩

end Sys2Proof.Machine
end

section
/-! SUPPORT. Fixed values of the pure functions: the letter codes (40_chunk_type.md R70) and the CRC's check values
(00_scope.md R3, 41_crc.md R105). -/

namespace Sys2Proof.Machine

/-- The two letter ranges (R70). -/
theorem isLetter_iff (b : Byte) : isLetter b = true ↔ (0x41#8 ≤ b ∧ b ≤ 0x5A#8) ∨ (0x61#8 ≤ b ∧ b ≤ 0x7A#8) := by
  simp [isLetter, BitVec.le_def]

/-- Settles O28: `isLetter_iff`, the count evaluated, and the other codes lie in neither range. -/
theorem lettersAreTheFiftyTwoCodes : Obligations.LettersAreTheFiftyTwoCodes := by
  refine ⟨isLetter_iff, by decide +kernel, fun b outside => ?_⟩
  rw [Bool.eq_false_iff, ne_eq, isLetter_iff]
  bv_omega

/-- Settles O32: four fixed sequences, evaluated; the CRC of IEND is `crcValue_crcWord_iend`. -/
theorem crcCheckValues : Obligations.CrcCheckValues := by
  refine ⟨by decide +kernel, crcValue_crcInit, crcValue_crcWord_iend, ?_⟩
  exact (congrArg crcValue crcWord_crcInit_ruSt).trans (by decide)

end Sys2Proof.Machine
end
